-- ==== Sys2Proof/Word.lean ====
section
/-! DEFINITION. The word types of the CORE (spec 00_scope R6, R7): names for the widths the spec uses. -/

namespace Sys2Proof

/-- One byte, the smallest addressable unit of every address space (10_state R55). -/
abbrev Byte := BitVec 8

/-- A 32-bit word: an instruction, a bus address, a COP0 slot, an RSP scalar register, an RDP word. -/
abbrev Word := BitVec 32

/-- A 64-bit CPU register (10_state R20). -/
abbrev DWord := BitVec 64

/-- A 16-bit vector lane (10_state R45). -/
abbrev Lane := BitVec 16

/-- A 12-bit RSP local address (10_state R43). -/
abbrev Local := BitVec 12

/-- A register number: "a register index is a 5-bit field and cannot be out of range" (00_scope R13). -/
abbrev Reg := BitVec 5

end Sys2Proof
end

