-- ==== Sys2Proof/Config.lean ====
section
/-! DEFINITION. The implementation parameters of 00_scope R6. Those that are plain data are the structure `Params`, which
the machine takes as an argument and carries unchanged (log 31); their defaults stand in Machine/Params.lean (log 6).
Those the spec leaves OPEN, and CYCLE_COST, are opaque constants, so that nothing can be proved of their value (logs 9 to
12). -/

namespace Sys2Proof

/-- The five save types (20_memory R118). -/
inductive SaveType where
  | none | smallEeprom | largeEeprom | sram | flash
deriving DecidableEq, Repr

/-- The region names: those of the default REGION_TABLE, and any other name another table gives (20_memory R112). -/
inductive GameRegion where
  | usa | japan | europe | germany | france | italy | spain | australia | unknown
  | named (name : List Byte)
deriving DecidableEq, Repr

/-- The pixel format of the framebuffer that the host reads: the constant RGBA8888 (45_rdp R430). -/
inductive PixelFormat where
  | rgba8888
deriving DecidableEq, Repr

/-- The registers of the coprocessor windows (20_memory R100). -/
inductive BusReg where
  | spMemAddr | spDramAddr | spRdLen | spWrLen | spStatus | spPc | dpcStart | dpcEnd
deriving DecidableEq, Repr

/-- One 32-bit value of DIV_CORNER, sign-extended where it is written (40_cpu_step_and_alu R187, R230, R231). -/
inductive CornerValue where
  /-- This word. -/
  | const (v : Word)
  /-- The dividend. -/
  | dividend
  /-- One word for a dividend at or above 0 as a signed number, another below. -/
  | bySign (nonNegative negative : Word)
deriving DecidableEq, Repr

/-- DIV_CORNER: LO and HI after each division corner (40_cpu_step_and_alu R230, R231). -/
structure DivCorner where
  divZeroLo : CornerValue
  divZeroHi : CornerValue
  divuZeroLo : CornerValue
  divuZeroHi : CornerValue
  overflowLo : CornerValue
  overflowHi : CornerValue
deriving DecidableEq, Repr

/-- The shape of `tex_image` and `color_image` (10_state R49): `width` is a number 1 to 1024. -/
structure ImageDesc where
  format : BitVec 3
  size   : BitVec 2
  width  : Nat
  addr   : BitVec 26
deriving DecidableEq, Repr

/-- The scissor rectangle, in quarter pixels (10_state R49). -/
structure Scissor where
  xh : BitVec 12
  yh : BitVec 12
  xl : BitVec 12
  yl : BitVec 12
deriving DecidableEq, Repr

/-- The RDP render state (10_state R49). It is declared here because it is the argument of TEX_SAMPLE. -/
structure RenderState where
  fillColor  : Word
  blendColor : Word
  fogColor   : Word
  envColor   : Word
  combine0   : BitVec 24
  combine1   : Word
  texImage   : ImageDesc
  colorImage : ImageDesc
  scissor    : Scissor
  renderMode : Word
deriving DecidableEq, Repr

/-- The parameters of 00_scope R6 that are plain data, each under its name there: the machine is built with one value of
this structure and no step changes it (log 31). -/
structure Params where
  /-- RESET_PC (70_reset R501). -/
  resetPc : Word
  /-- RESET_STATUS (70_reset R501). -/
  resetStatus : Word
  /-- PRID_VALUE (10_state R37). -/
  pridValue : Word
  /-- CONFIG_VALUE (10_state R38). -/
  configValue : Word
  /-- VEC_NORMAL, the vector when Status.BEV = 0 (60_exceptions R461). -/
  vecNormal : Word
  /-- VEC_BOOT, the vector when Status.BEV = 1 (60_exceptions R461). -/
  vecBoot : Word
  /-- RDRAM_SIZE, in bytes (20_memory R82). -/
  rdramSize : Nat
  /-- REGWIN: the physical address of each register, one word each (20_memory R100). -/
  regwin : List (Nat × BusReg)
  /-- FB_WIDTH (10_state R50). -/
  fbWidth : Nat
  /-- FB_HEIGHT (10_state R50). -/
  fbHeight : Nat
  /-- RDP_LEN: the opcodes whose count of trailing words is not 1, with that count (45_rdp R403). -/
  rdpLengths : List (BitVec 6 × Nat)
  /-- CLOCK_PLAUSIBLE: the header clock-rate bytes that are not plausible (20_memory R110). -/
  implausibleClocks : List Byte
  /-- ENTRY_WINDOW, its first address (20_memory R110). -/
  entryFirst : Word
  /-- ENTRY_WINDOW, its last address (20_memory R110). -/
  entryLast : Word
  /-- REGION_TABLE: the bytes that have a name; every other byte is "Unknown" (20_memory R112). -/
  regionTable : List (Byte × GameRegion)
  /-- SAVE_SIZE of small EEPROM; that of `none` is 0, since its accessors are no-ops (20_memory R118, R122). -/
  smallEepromSize : Nat
  /-- SAVE_SIZE of large EEPROM (20_memory R118). -/
  largeEepromSize : Nat
  /-- SAVE_SIZE of SRAM (20_memory R118). -/
  sramSize : Nat
  /-- SAVE_SIZE of Flash (20_memory R118). -/
  flashSize : Nat
  /-- DIV_CORNER (40_cpu_step_and_alu R230, R231). -/
  divCorner : DivCorner
deriving DecidableEq, Repr

namespace Config

/-- The size of RSP IMEM and of RSP DMEM (10_state R44), fixed by the document. -/
def localSize : Nat := 0x1000

/-- One cartridge bank (00_scope R6), fixed by the document. -/
def bankSize : Nat := 0x200000

/-- RSP_BURST_MAX less one. The bound is OPEN, "any positive number" (44_rsp R325): a free value (log 9). -/
opaque burstExtra : Nat

/-- RSP_BURST_MAX, the most RSP instructions one `executeFrame` retires: a free positive number (log 9). -/
def rspBurstMax : Nat := burstExtra + 1

/-- CYCLE_COST: what a CPU step returns for an instruction word (40_cpu_step R186): a free value (log 12). -/
opaque cycleCost : Word → Nat

/-- TEX_SAMPLE: (render state, tile, s, t) to a 32-bit RGBA pixel (45_rdp R423): a free value (log 10). -/
opaque texSample : RenderState → BitVec 3 → Int → Int → Word

/-- The table that SAVE_TITLE_TABLE is if it is admissible, see `saveTitleTable` (20_memory R118): a free value
(log 11). -/
opaque openTitleTable : List (List Byte × SaveType)

end Config

end Sys2Proof
end

