-- ==== Sys2Proof/Machine/Params.lean ====
section
/-! DEFINITION. The defaults of the parameters of 00_scope R6 (log 6), and what each table of them answers. -/

namespace Sys2Proof

/-- The default REGWIN (20_memory R100; DESIGN CHOICE of the spec, D26, log 26). -/
def defaultRegwin : List (Nat × BusReg) :=
  [(0x04040000, .spMemAddr), (0x04040004, .spDramAddr), (0x04040008, .spRdLen), (0x0404000C, .spWrLen),
    (0x04040010, .spStatus), (0x04080000, .spPc), (0x04100000, .dpcStart), (0x04100004, .dpcEnd)]

/-- The default RDP_LEN, its rows that differ from 1 (45_rdp R403; DESIGN CHOICE, log 6). -/
def defaultRdpLengths : List (BitVec 6 × Nat) :=
  [(0x08#6, 7), (0x09#6, 11), (0x0A#6, 23), (0x0B#6, 27), (0x0C#6, 23), (0x0D#6, 27), (0x0E#6, 39), (0x0F#6, 43),
    (0x24#6, 3), (0x25#6, 3)]

/-- The default REGION_TABLE (20_memory R112; all rows but the first DESIGN CHOICE, log 6). -/
def defaultRegionTable : List (Byte × GameRegion) :=
  [(0x45#8, .usa), (0x4A#8, .japan), (0x50#8, .europe), (0x44#8, .germany), (0x46#8, .france), (0x49#8, .italy),
    (0x53#8, .spain), (0x55#8, .australia)]

/-- The default DIV_CORNER, the real processor's values (40 R230, R231; DESIGN CHOICE, log 13). -/
def defaultDivCorner : DivCorner where
  divZeroLo := .bySign 0xFFFFFFFF#32 0x00000001#32
  divZeroHi := .dividend
  divuZeroLo := .const 0xFFFFFFFF#32
  divuZeroHi := .dividend
  overflowLo := .const 0x80000000#32
  overflowHi := .const 0x00000000#32

/-- Every parameter at the default of 00_scope R6 (DESIGN CHOICE, log 6): RDRAM_SIZE is 4 MiB; RESET_STATUS has BEV = 1,
IE = 0, EL = 0; only the clock-rate byte 0 is implausible. -/
def Params.default : Params where
  resetPc := 0xBFC00000#32
  resetStatus := 0x00400000#32
  pridValue := 0x00000B22#32
  configValue := 0x7006E463#32
  vecNormal := 0x80000180#32
  vecBoot := 0xBFC00380#32
  rdramSize := 0x00400000
  regwin := defaultRegwin
  fbWidth := 320
  fbHeight := 240
  rdpLengths := defaultRdpLengths
  implausibleClocks := [0x00#8]
  entryFirst := 0x80000000#32
  entryLast := 0x807FFFFF#32
  regionTable := defaultRegionTable
  smallEepromSize := 512
  largeEepromSize := 2048
  sramSize := 32768
  flashSize := 131072
  divCorner := defaultDivCorner

/-- REGWIN: the register at exactly this physical address (20_memory R100, R102). -/
def Params.busRegAt (p : Params) (pa : Nat) : Option BusReg := p.regwin.lookup pa

/-- Whether a physical address is one of the four bytes of a register of REGWIN (20_memory R82, R102). -/
def Params.inRegwin (p : Params) (pa : Nat) : Bool :=
  p.regwin.any fun row => decide (row.1 ≤ pa) && decide (pa < row.1 + 4)

/-- RDP_LEN: how many trailing words a command takes (45_rdp R403). -/
def Params.rdpLen (p : Params) (op : BitVec 6) : Nat := (p.rdpLengths.lookup op).getD 1

/-- CLOCK_PLAUSIBLE (20_memory R110). -/
def Params.clockPlausible (p : Params) (b : Byte) : Bool := !p.implausibleClocks.contains b

/-- ENTRY_WINDOW, a closed range (20_memory R110). -/
def Params.entryInWindow (p : Params) (entry : Word) : Bool := p.entryFirst.ule entry && entry.ule p.entryLast

/-- REGION_TABLE (20_memory R112). -/
def Params.regionOf (p : Params) (b : Byte) : GameRegion := (p.regionTable.lookup b).getD .unknown

/-- SAVE_SIZE (20_memory R118). -/
def Params.saveSize (p : Params) : SaveType → Nat
  | .none => 0
  | .smallEeprom => p.smallEepromSize
  | .largeEeprom => p.largeEepromSize
  | .sram => p.sramSize
  | .flash => p.flashSize

/-- The number of pixels of the framebuffer (10_state R50). -/
def Params.fbPixels (p : Params) : Nat := p.fbWidth * p.fbHeight

/-- The number of bytes a frame write-back covers (45_rdp R424). -/
def Params.frameBytes (p : Params) : Nat := p.fbPixels * 4

/-- A value of DIV_CORNER for the dividend `a`, as a 64-bit register (40 R187, R230, R231). -/
def CornerValue.eval (c : CornerValue) (a : Word) : DWord :=
  match c with
  | .const v => v.signExtend 64
  | .dividend => a.signExtend 64
  | .bySign nonNegative negative => if (0#32).sle a then nonNegative.signExtend 64 else negative.signExtend 64

end Sys2Proof
end

