-- ==== Sys2Proof/Syntax.lean ====
section
/-! DEFINITION. The one instruction type: a constructor for each of the 126 rows of spec/opcode_table.json, in its
order. Operands stand in the assembler's order (30_encoding R160). Fields a row does not use are not kept
(30_encoding R144; log 18); the 20-bit code of SYSCALL, BREAK and RSP.BREAK, which software may read, is. -/

namespace Sys2Proof

inductive Instr where
  -- the CPU, 30_encoding R145 to R148
  /-- SLL (40 R200). -/
  | sll (rd rt : Reg) (shamt : BitVec 5)
  /-- SRL (40 R201). -/
  | srl (rd rt : Reg) (shamt : BitVec 5)
  /-- SRA (40 R202). -/
  | sra (rd rt : Reg) (shamt : BitVec 5)
  /-- SLLV (40 R203). -/
  | sllv (rd rt rs : Reg)
  /-- SRLV (40 R204). -/
  | srlv (rd rt rs : Reg)
  /-- SRAV (40 R205). -/
  | srav (rd rt rs : Reg)
  /-- JR (42 R282). -/
  | jr (rs : Reg)
  /-- JALR (42 R283). -/
  | jalr (rd rs : Reg)
  /-- SYSCALL (43 R307). -/
  | syscall (code : BitVec 20)
  /-- BREAK (43 R308). -/
  | brk (code : BitVec 20)
  /-- MFHI (40 R220). -/
  | mfhi (rd : Reg)
  /-- MTHI (40 R221). -/
  | mthi (rs : Reg)
  /-- MFLO (40 R222). -/
  | mflo (rd : Reg)
  /-- MTLO (40 R223). -/
  | mtlo (rs : Reg)
  /-- MULT (40 R224). -/
  | mult (rs rt : Reg)
  /-- MULTU (40 R225). -/
  | multu (rs rt : Reg)
  /-- DIV (40 R226). -/
  | div (rs rt : Reg)
  /-- DIVU (40 R227). -/
  | divu (rs rt : Reg)
  /-- ADD (40 R190). -/
  | add (rd rs rt : Reg)
  /-- ADDU (40 R191). -/
  | addu (rd rs rt : Reg)
  /-- SUB (40 R192). -/
  | sub (rd rs rt : Reg)
  /-- SUBU (40 R193). -/
  | subu (rd rs rt : Reg)
  /-- AND (40 R196). -/
  | and (rd rs rt : Reg)
  /-- OR (40 R197). -/
  | or (rd rs rt : Reg)
  /-- XOR (40 R198). -/
  | xor (rd rs rt : Reg)
  /-- NOR (40 R199). -/
  | nor (rd rs rt : Reg)
  /-- SLT (40 R210). -/
  | slt (rd rs rt : Reg)
  /-- SLTU (40 R211). -/
  | sltu (rd rs rt : Reg)
  /-- BLTZ (42 R280). -/
  | bltz (rs : Reg) (off : BitVec 16)
  /-- BGEZ (42 R281). -/
  | bgez (rs : Reg) (off : BitVec 16)
  /-- BLTZAL (42 R286). -/
  | bltzal (rs : Reg) (off : BitVec 16)
  /-- BGEZAL (42 R287). -/
  | bgezal (rs : Reg) (off : BitVec 16)
  /-- J (42 R278). -/
  | j (target : BitVec 26)
  /-- JAL (42 R279). -/
  | jal (target : BitVec 26)
  /-- BEQ (42 R274). -/
  | beq (rs rt : Reg) (off : BitVec 16)
  /-- BNE (42 R275). -/
  | bne (rs rt : Reg) (off : BitVec 16)
  /-- BLEZ (42 R276). -/
  | blez (rs : Reg) (off : BitVec 16)
  /-- BGTZ (42 R277). -/
  | bgtz (rs : Reg) (off : BitVec 16)
  /-- ADDI (40 R194). -/
  | addi (rt rs : Reg) (imm : BitVec 16)
  /-- ADDIU (40 R195). -/
  | addiu (rt rs : Reg) (imm : BitVec 16)
  /-- SLTI (40 R212). -/
  | slti (rt rs : Reg) (imm : BitVec 16)
  /-- SLTIU (40 R213). -/
  | sltiu (rt rs : Reg) (imm : BitVec 16)
  /-- ANDI (40 R206). -/
  | andi (rt rs : Reg) (imm : BitVec 16)
  /-- ORI (40 R207). -/
  | ori (rt rs : Reg) (imm : BitVec 16)
  /-- XORI (40 R208). -/
  | xori (rt rs : Reg) (imm : BitVec 16)
  /-- LUI (40 R209). -/
  | lui (rt : Reg) (imm : BitVec 16)
  /-- LB (41 R244). -/
  | lb (rt base : Reg) (off : BitVec 16)
  /-- LH (41 R246). -/
  | lh (rt base : Reg) (off : BitVec 16)
  /-- LW (41 R248). -/
  | lw (rt base : Reg) (off : BitVec 16)
  /-- LBU (41 R245). -/
  | lbu (rt base : Reg) (off : BitVec 16)
  /-- LHU (41 R247). -/
  | lhu (rt base : Reg) (off : BitVec 16)
  /-- LWU (41 R249). -/
  | lwu (rt base : Reg) (off : BitVec 16)
  /-- SB (41 R250). -/
  | sb (rt base : Reg) (off : BitVec 16)
  /-- SH (41 R251). -/
  | sh (rt base : Reg) (off : BitVec 16)
  /-- SW (41 R252). -/
  | sw (rt base : Reg) (off : BitVec 16)
  /-- LL (41 R253). -/
  | ll (rt base : Reg) (off : BitVec 16)
  /-- SC (41 R254). -/
  | sc (rt base : Reg) (off : BitVec 16)
  /-- MFC0 (43 R300). -/
  | mfc0 (rt rd : Reg)
  /-- MTC0 (43 R301). -/
  | mtc0 (rt rd : Reg)
  /-- ERET (43 R304). -/
  | eret
  -- the RSP, 30_encoding R153 and R154
  /-- RSP.SLL (44 R340). -/
  | rspSll (rd rt : Reg) (shamt : BitVec 5)
  /-- RSP.SRL (44 R341). -/
  | rspSrl (rd rt : Reg) (shamt : BitVec 5)
  /-- RSP.SRA (44 R342). -/
  | rspSra (rd rt : Reg) (shamt : BitVec 5)
  /-- RSP.SLLV (44 R343). -/
  | rspSllv (rd rt rs : Reg)
  /-- RSP.SRLV (44 R344). -/
  | rspSrlv (rd rt rs : Reg)
  /-- RSP.SRAV (44 R345). -/
  | rspSrav (rd rt rs : Reg)
  /-- RSP.JR (44 R374). -/
  | rspJr (rs : Reg)
  /-- RSP.JALR (44 R375). -/
  | rspJalr (rd rs : Reg)
  /-- RSP.BREAK (44 R353). -/
  | rspBreak (code : BitVec 20)
  /-- RSP.ADD (44 R330). -/
  | rspAdd (rd rs rt : Reg)
  /-- RSP.ADDU (44 R331). -/
  | rspAddu (rd rs rt : Reg)
  /-- RSP.SUB (44 R332). -/
  | rspSub (rd rs rt : Reg)
  /-- RSP.SUBU (44 R333). -/
  | rspSubu (rd rs rt : Reg)
  /-- RSP.AND (44 R334). -/
  | rspAnd (rd rs rt : Reg)
  /-- RSP.OR (44 R335). -/
  | rspOr (rd rs rt : Reg)
  /-- RSP.XOR (44 R336). -/
  | rspXor (rd rs rt : Reg)
  /-- RSP.NOR (44 R337). -/
  | rspNor (rd rs rt : Reg)
  /-- RSP.SLT (44 R338). -/
  | rspSlt (rd rs rt : Reg)
  /-- RSP.SLTU (44 R339). -/
  | rspSltu (rd rs rt : Reg)
  /-- RSP.BLTZ (44 R367). -/
  | rspBltz (rs : Reg) (off : BitVec 16)
  /-- RSP.BGEZ (44 R368). -/
  | rspBgez (rs : Reg) (off : BitVec 16)
  /-- RSP.BLTZAL (44 R369). -/
  | rspBltzal (rs : Reg) (off : BitVec 16)
  /-- RSP.BGEZAL (44 R370). -/
  | rspBgezal (rs : Reg) (off : BitVec 16)
  /-- RSP.J (44 R371). -/
  | rspJ (target : BitVec 26)
  /-- RSP.JAL (44 R373). -/
  | rspJal (target : BitVec 26)
  /-- RSP.BEQ (44 R363). -/
  | rspBeq (rs rt : Reg) (off : BitVec 16)
  /-- RSP.BNE (44 R364). -/
  | rspBne (rs rt : Reg) (off : BitVec 16)
  /-- RSP.BLEZ (44 R365). -/
  | rspBlez (rs : Reg) (off : BitVec 16)
  /-- RSP.BGTZ (44 R366). -/
  | rspBgtz (rs : Reg) (off : BitVec 16)
  /-- RSP.ADDI (44 R346). -/
  | rspAddi (rt rs : Reg) (imm : BitVec 16)
  /-- RSP.ADDIU (44 R347). -/
  | rspAddiu (rt rs : Reg) (imm : BitVec 16)
  /-- RSP.SLTI (44 R348). -/
  | rspSlti (rt rs : Reg) (imm : BitVec 16)
  /-- RSP.SLTIU (44 R349). -/
  | rspSltiu (rt rs : Reg) (imm : BitVec 16)
  /-- RSP.ANDI (44 R350). -/
  | rspAndi (rt rs : Reg) (imm : BitVec 16)
  /-- RSP.ORI (44 R351). -/
  | rspOri (rt rs : Reg) (imm : BitVec 16)
  /-- RSP.XORI (44 R352). -/
  | rspXori (rt rs : Reg) (imm : BitVec 16)
  /-- RSP.LUI (44 R354). -/
  | rspLui (rt : Reg) (imm : BitVec 16)
  /-- RSP.LB (44 R355). -/
  | rspLb (rt base : Reg) (off : BitVec 16)
  /-- RSP.LH (44 R357). -/
  | rspLh (rt base : Reg) (off : BitVec 16)
  /-- RSP.LW (44 R359). -/
  | rspLw (rt base : Reg) (off : BitVec 16)
  /-- RSP.LBU (44 R356). -/
  | rspLbu (rt base : Reg) (off : BitVec 16)
  /-- RSP.LHU (44 R358). -/
  | rspLhu (rt base : Reg) (off : BitVec 16)
  /-- RSP.SB (44 R360). -/
  | rspSb (rt base : Reg) (off : BitVec 16)
  /-- RSP.SH (44 R361). -/
  | rspSh (rt base : Reg) (off : BitVec 16)
  /-- RSP.SW (44 R362). -/
  | rspSw (rt base : Reg) (off : BitVec 16)
  /-- VMULF (44 R379). -/
  | vmulf (vd vs vt : Reg) (e : BitVec 4)
  /-- VMUDL (44 R382). -/
  | vmudl (vd vs vt : Reg) (e : BitVec 4)
  /-- VMUDN (44 R383). -/
  | vmudn (vd vs vt : Reg) (e : BitVec 4)
  /-- VMUDH (44 R384). -/
  | vmudh (vd vs vt : Reg) (e : BitVec 4)
  /-- VADD (44 R377). -/
  | vadd (vd vs vt : Reg) (e : BitVec 4)
  /-- VSUB (44 R378). -/
  | vsub (vd vs vt : Reg) (e : BitVec 4)
  /-- VSAR (44 R372). -/
  | vsar (vd vs vt : Reg) (e : BitVec 4)
  /-- LQV (44 R385). -/
  | lqv (vt base : Reg) (off : BitVec 7)
  /-- SQV (44 R386). -/
  | sqv (vt base : Reg) (off : BitVec 7)
  -- the RDP, 30_encoding R157
  /-- SET_COLOR_IMAGE (45 R410). -/
  | setColorImage (format : BitVec 3) (size : BitVec 2) (width : Nat) (addr : BitVec 26)
  /-- SET_TEXTURE_IMAGE (45 R411). -/
  | setTextureImage (format : BitVec 3) (size : BitVec 2) (width : Nat) (addr : BitVec 26)
  /-- SET_FILL_COLOR (45 R412). -/
  | setFillColor (color : Word)
  /-- SET_FOG_COLOR (45 R413). -/
  | setFogColor (color : Word)
  /-- SET_BLEND_COLOR (45 R414). -/
  | setBlendColor (color : Word)
  /-- SET_ENV_COLOR (45 R415). -/
  | setEnvColor (color : Word)
  /-- SET_COMBINE_MODE (45 R416). -/
  | setCombineMode (c0 : BitVec 24) (c1 : Word)
  /-- SET_SCISSOR (45 R417). -/
  | setScissor (xh yh xl yl : BitVec 12)
  /-- SET_OTHER_MODES (45 R418). -/
  | setOtherModes (mode : Word)
  /-- FILL_RECTANGLE (45 R421). -/
  | fillRectangle (xl yl xh yh : BitVec 12)
  /-- TEXTURE_RECTANGLE (45 R422). -/
  | textureRectangle (xl yl : BitVec 12) (tile : BitVec 3) (xh yh : BitVec 12) (s t dsdx dtdy : BitVec 16)
  /-- SYNC_FULL (45 R424). -/
  | syncFull
deriving DecidableEq, Repr

end Sys2Proof
end

