-- ==== Sys2Proof/WellFormed.lean ====
section
/-! DEFINITION. What the types of Syntax.lean do not say of an instruction: the width of an image is a number 1 to
1024 (10_state R49, 45_rdp R410: `w0[9:0] + 1`). Every other field has exactly its encoding's bits. -/

namespace Sys2Proof

/-- An instruction that some word or words encode. -/
def Instr.wellFormed : Instr → Bool
  | .sll _ _ _ => true
  | .srl _ _ _ => true
  | .sra _ _ _ => true
  | .sllv _ _ _ => true
  | .srlv _ _ _ => true
  | .srav _ _ _ => true
  | .jr _ => true
  | .jalr _ _ => true
  | .syscall _ => true
  | .brk _ => true
  | .mfhi _ => true
  | .mthi _ => true
  | .mflo _ => true
  | .mtlo _ => true
  | .mult _ _ => true
  | .multu _ _ => true
  | .div _ _ => true
  | .divu _ _ => true
  | .add _ _ _ => true
  | .addu _ _ _ => true
  | .sub _ _ _ => true
  | .subu _ _ _ => true
  | .and _ _ _ => true
  | .or _ _ _ => true
  | .xor _ _ _ => true
  | .nor _ _ _ => true
  | .slt _ _ _ => true
  | .sltu _ _ _ => true
  | .bltz _ _ => true
  | .bgez _ _ => true
  | .bltzal _ _ => true
  | .bgezal _ _ => true
  | .j _ => true
  | .jal _ => true
  | .beq _ _ _ => true
  | .bne _ _ _ => true
  | .blez _ _ => true
  | .bgtz _ _ => true
  | .addi _ _ _ => true
  | .addiu _ _ _ => true
  | .slti _ _ _ => true
  | .sltiu _ _ _ => true
  | .andi _ _ _ => true
  | .ori _ _ _ => true
  | .xori _ _ _ => true
  | .lui _ _ => true
  | .lb _ _ _ => true
  | .lh _ _ _ => true
  | .lw _ _ _ => true
  | .lbu _ _ _ => true
  | .lhu _ _ _ => true
  | .lwu _ _ _ => true
  | .sb _ _ _ => true
  | .sh _ _ _ => true
  | .sw _ _ _ => true
  | .ll _ _ _ => true
  | .sc _ _ _ => true
  | .mfc0 _ _ => true
  | .mtc0 _ _ => true
  | .eret => true
  | .rspSll _ _ _ => true
  | .rspSrl _ _ _ => true
  | .rspSra _ _ _ => true
  | .rspSllv _ _ _ => true
  | .rspSrlv _ _ _ => true
  | .rspSrav _ _ _ => true
  | .rspJr _ => true
  | .rspJalr _ _ => true
  | .rspBreak _ => true
  | .rspAdd _ _ _ => true
  | .rspAddu _ _ _ => true
  | .rspSub _ _ _ => true
  | .rspSubu _ _ _ => true
  | .rspAnd _ _ _ => true
  | .rspOr _ _ _ => true
  | .rspXor _ _ _ => true
  | .rspNor _ _ _ => true
  | .rspSlt _ _ _ => true
  | .rspSltu _ _ _ => true
  | .rspBltz _ _ => true
  | .rspBgez _ _ => true
  | .rspBltzal _ _ => true
  | .rspBgezal _ _ => true
  | .rspJ _ => true
  | .rspJal _ => true
  | .rspBeq _ _ _ => true
  | .rspBne _ _ _ => true
  | .rspBlez _ _ => true
  | .rspBgtz _ _ => true
  | .rspAddi _ _ _ => true
  | .rspAddiu _ _ _ => true
  | .rspSlti _ _ _ => true
  | .rspSltiu _ _ _ => true
  | .rspAndi _ _ _ => true
  | .rspOri _ _ _ => true
  | .rspXori _ _ _ => true
  | .rspLui _ _ => true
  | .rspLb _ _ _ => true
  | .rspLh _ _ _ => true
  | .rspLw _ _ _ => true
  | .rspLbu _ _ _ => true
  | .rspLhu _ _ _ => true
  | .rspSb _ _ _ => true
  | .rspSh _ _ _ => true
  | .rspSw _ _ _ => true
  | .vmulf _ _ _ _ => true
  | .vmudl _ _ _ _ => true
  | .vmudn _ _ _ _ => true
  | .vmudh _ _ _ _ => true
  | .vadd _ _ _ _ => true
  | .vsub _ _ _ _ => true
  | .vsar _ _ _ _ => true
  | .lqv _ _ _ => true
  | .sqv _ _ _ => true
  | .setColorImage _ _ width _ => decide (1 ≤ width) && decide (width ≤ 1024)
  | .setTextureImage _ _ width _ => decide (1 ≤ width) && decide (width ≤ 1024)
  | .setFillColor _ => true
  | .setFogColor _ => true
  | .setBlendColor _ => true
  | .setEnvColor _ => true
  | .setCombineMode _ _ => true
  | .setScissor _ _ _ _ => true
  | .setOtherModes _ => true
  | .fillRectangle _ _ _ _ => true
  | .textureRectangle _ _ _ _ _ _ _ _ _ => true
  | .syncFull => true

end Sys2Proof
end

