-- ==== Sys2Proof/Decode.lean ====
section
/-! DEFINITION. Decoding and encoding (spec 30_encoding). Each block has its own maps, so each has its own decoder
(the same word is ADD on the CPU and RSP.ADD on the RSP). A word no map names is rejected by name. -/

namespace Sys2Proof

/-- The three blocks that fetch words (00_scope R5). -/
inductive Block where
  | cpu | rsp | rdp
deriving DecidableEq, Repr

/-- Why words are no instruction. None of these stops the machine: the CPU raises reserved-instruction
(60_exceptions R455), the RSP executes a no-op (30_encoding R155), the RDP skips by length (45_rdp R404) or drops a
command cut off by the end of the queue (45_rdp R402). -/
inductive Reject where
  /-- A CPU word outside the maps R145, R147, R148. -/
  | reservedInstruction (w : Word)
  /-- An RSP word outside R153, R154. -/
  | unknownRspWord (w : Word)
  /-- An RDP opcode outside R157. -/
  | unknownRdpOpcode (op : BitVec 6)
  /-- Fewer bytes or words than the instruction takes. -/
  | truncated (b : Block)
deriving DecidableEq, Repr

/-! ### Fields (30_encoding R141, R154) -/

def fieldOpcode (w : Word) : BitVec 6 := w.extractLsb' 26 6
def fieldRs (w : Word) : Reg := w.extractLsb' 21 5
def fieldRt (w : Word) : Reg := w.extractLsb' 16 5
def fieldRd (w : Word) : Reg := w.extractLsb' 11 5
def fieldShamt (w : Word) : BitVec 5 := w.extractLsb' 6 5
def fieldFunct (w : Word) : BitVec 6 := w.extractLsb' 0 6
def fieldImm (w : Word) : BitVec 16 := w.extractLsb' 0 16
def fieldTarget (w : Word) : BitVec 26 := w.extractLsb' 0 26
def fieldCode (w : Word) : BitVec 20 := w.extractLsb' 6 20
/-- Bit 25, which marks the vector computational form (R154). -/
def fieldVectorBit (w : Word) : BitVec 1 := w.extractLsb' 25 1
def fieldElement (w : Word) : BitVec 4 := w.extractLsb' 21 4
/-- `vd`, bits 10:6 of the vector computational form (R154). -/
def fieldVd (w : Word) : Reg := w.extractLsb' 6 5
def fieldVectorOffset (w : Word) : BitVec 7 := w.extractLsb' 0 7

/-! ### The CPU (30_encoding R144 to R149) -/

/-- The SPECIAL map, by `funct` (R147). -/
def decodeCpuSpecial (w : Word) : Except Reject Instr :=
  match fieldFunct w with
  | 0x00#6 => .ok (.sll (fieldRd w) (fieldRt w) (fieldShamt w))
  | 0x02#6 => .ok (.srl (fieldRd w) (fieldRt w) (fieldShamt w))
  | 0x03#6 => .ok (.sra (fieldRd w) (fieldRt w) (fieldShamt w))
  | 0x04#6 => .ok (.sllv (fieldRd w) (fieldRt w) (fieldRs w))
  | 0x06#6 => .ok (.srlv (fieldRd w) (fieldRt w) (fieldRs w))
  | 0x07#6 => .ok (.srav (fieldRd w) (fieldRt w) (fieldRs w))
  | 0x08#6 => .ok (.jr (fieldRs w))
  | 0x09#6 => .ok (.jalr (fieldRd w) (fieldRs w))
  | 0x0C#6 => .ok (.syscall (fieldCode w))
  | 0x0D#6 => .ok (.brk (fieldCode w))
  | 0x10#6 => .ok (.mfhi (fieldRd w))
  | 0x11#6 => .ok (.mthi (fieldRs w))
  | 0x12#6 => .ok (.mflo (fieldRd w))
  | 0x13#6 => .ok (.mtlo (fieldRs w))
  | 0x18#6 => .ok (.mult (fieldRs w) (fieldRt w))
  | 0x19#6 => .ok (.multu (fieldRs w) (fieldRt w))
  | 0x1A#6 => .ok (.div (fieldRs w) (fieldRt w))
  | 0x1B#6 => .ok (.divu (fieldRs w) (fieldRt w))
  | 0x20#6 => .ok (.add (fieldRd w) (fieldRs w) (fieldRt w))
  | 0x21#6 => .ok (.addu (fieldRd w) (fieldRs w) (fieldRt w))
  | 0x22#6 => .ok (.sub (fieldRd w) (fieldRs w) (fieldRt w))
  | 0x23#6 => .ok (.subu (fieldRd w) (fieldRs w) (fieldRt w))
  | 0x24#6 => .ok (.and (fieldRd w) (fieldRs w) (fieldRt w))
  | 0x25#6 => .ok (.or (fieldRd w) (fieldRs w) (fieldRt w))
  | 0x26#6 => .ok (.xor (fieldRd w) (fieldRs w) (fieldRt w))
  | 0x27#6 => .ok (.nor (fieldRd w) (fieldRs w) (fieldRt w))
  | 0x2A#6 => .ok (.slt (fieldRd w) (fieldRs w) (fieldRt w))
  | 0x2B#6 => .ok (.sltu (fieldRd w) (fieldRs w) (fieldRt w))
  | _ => .error (.reservedInstruction w)

/-- The REGIMM map, by `rt` (R148). -/
def decodeCpuRegimm (w : Word) : Except Reject Instr :=
  match fieldRt w with
  | 0x00#5 => .ok (.bltz (fieldRs w) (fieldImm w))
  | 0x01#5 => .ok (.bgez (fieldRs w) (fieldImm w))
  | 0x10#5 => .ok (.bltzal (fieldRs w) (fieldImm w))
  | 0x11#5 => .ok (.bgezal (fieldRs w) (fieldImm w))
  | _ => .error (.reservedInstruction w)

/-- The COP0 map, by `rs`, and for `rs` = 0x10 by `funct` (R148). -/
def decodeCpuCop0 (w : Word) : Except Reject Instr :=
  match fieldRs w with
  | 0x00#5 => .ok (.mfc0 (fieldRt w) (fieldRd w))
  | 0x04#5 => .ok (.mtc0 (fieldRt w) (fieldRd w))
  | 0x10#5 =>
    match fieldFunct w with
    | 0x18#6 => .ok .eret
    | _ => .error (.reservedInstruction w)
  | _ => .error (.reservedInstruction w)

/-- The CPU decoder: the primary map, by `opcode` (R144, R145). -/
def decodeCpuWord (w : Word) : Except Reject Instr :=
  match fieldOpcode w with
  | 0x00#6 => decodeCpuSpecial w
  | 0x01#6 => decodeCpuRegimm w
  | 0x02#6 => .ok (.j (fieldTarget w))
  | 0x03#6 => .ok (.jal (fieldTarget w))
  | 0x04#6 => .ok (.beq (fieldRs w) (fieldRt w) (fieldImm w))
  | 0x05#6 => .ok (.bne (fieldRs w) (fieldRt w) (fieldImm w))
  | 0x06#6 => .ok (.blez (fieldRs w) (fieldImm w))
  | 0x07#6 => .ok (.bgtz (fieldRs w) (fieldImm w))
  | 0x08#6 => .ok (.addi (fieldRt w) (fieldRs w) (fieldImm w))
  | 0x09#6 => .ok (.addiu (fieldRt w) (fieldRs w) (fieldImm w))
  | 0x0A#6 => .ok (.slti (fieldRt w) (fieldRs w) (fieldImm w))
  | 0x0B#6 => .ok (.sltiu (fieldRt w) (fieldRs w) (fieldImm w))
  | 0x0C#6 => .ok (.andi (fieldRt w) (fieldRs w) (fieldImm w))
  | 0x0D#6 => .ok (.ori (fieldRt w) (fieldRs w) (fieldImm w))
  | 0x0E#6 => .ok (.xori (fieldRt w) (fieldRs w) (fieldImm w))
  | 0x0F#6 => .ok (.lui (fieldRt w) (fieldImm w))
  | 0x10#6 => decodeCpuCop0 w
  | 0x20#6 => .ok (.lb (fieldRt w) (fieldRs w) (fieldImm w))
  | 0x21#6 => .ok (.lh (fieldRt w) (fieldRs w) (fieldImm w))
  | 0x23#6 => .ok (.lw (fieldRt w) (fieldRs w) (fieldImm w))
  | 0x24#6 => .ok (.lbu (fieldRt w) (fieldRs w) (fieldImm w))
  | 0x25#6 => .ok (.lhu (fieldRt w) (fieldRs w) (fieldImm w))
  | 0x27#6 => .ok (.lwu (fieldRt w) (fieldRs w) (fieldImm w))
  | 0x28#6 => .ok (.sb (fieldRt w) (fieldRs w) (fieldImm w))
  | 0x29#6 => .ok (.sh (fieldRt w) (fieldRs w) (fieldImm w))
  | 0x2B#6 => .ok (.sw (fieldRt w) (fieldRs w) (fieldImm w))
  | 0x30#6 => .ok (.ll (fieldRt w) (fieldRs w) (fieldImm w))
  | 0x38#6 => .ok (.sc (fieldRt w) (fieldRs w) (fieldImm w))
  | _ => .error (.reservedInstruction w)

/-! ### The RSP (30_encoding R153 to R155) -/

/-- The RSP's SPECIAL map (R153). -/
def decodeRspSpecial (w : Word) : Except Reject Instr :=
  match fieldFunct w with
  | 0x00#6 => .ok (.rspSll (fieldRd w) (fieldRt w) (fieldShamt w))
  | 0x02#6 => .ok (.rspSrl (fieldRd w) (fieldRt w) (fieldShamt w))
  | 0x03#6 => .ok (.rspSra (fieldRd w) (fieldRt w) (fieldShamt w))
  | 0x04#6 => .ok (.rspSllv (fieldRd w) (fieldRt w) (fieldRs w))
  | 0x06#6 => .ok (.rspSrlv (fieldRd w) (fieldRt w) (fieldRs w))
  | 0x07#6 => .ok (.rspSrav (fieldRd w) (fieldRt w) (fieldRs w))
  | 0x08#6 => .ok (.rspJr (fieldRs w))
  | 0x09#6 => .ok (.rspJalr (fieldRd w) (fieldRs w))
  | 0x0D#6 => .ok (.rspBreak (fieldCode w))
  | 0x20#6 => .ok (.rspAdd (fieldRd w) (fieldRs w) (fieldRt w))
  | 0x21#6 => .ok (.rspAddu (fieldRd w) (fieldRs w) (fieldRt w))
  | 0x22#6 => .ok (.rspSub (fieldRd w) (fieldRs w) (fieldRt w))
  | 0x23#6 => .ok (.rspSubu (fieldRd w) (fieldRs w) (fieldRt w))
  | 0x24#6 => .ok (.rspAnd (fieldRd w) (fieldRs w) (fieldRt w))
  | 0x25#6 => .ok (.rspOr (fieldRd w) (fieldRs w) (fieldRt w))
  | 0x26#6 => .ok (.rspXor (fieldRd w) (fieldRs w) (fieldRt w))
  | 0x27#6 => .ok (.rspNor (fieldRd w) (fieldRs w) (fieldRt w))
  | 0x2A#6 => .ok (.rspSlt (fieldRd w) (fieldRs w) (fieldRt w))
  | 0x2B#6 => .ok (.rspSltu (fieldRd w) (fieldRs w) (fieldRt w))
  | _ => .error (.unknownRspWord w)

/-- The RSP's REGIMM map (R153). -/
def decodeRspRegimm (w : Word) : Except Reject Instr :=
  match fieldRt w with
  | 0x00#5 => .ok (.rspBltz (fieldRs w) (fieldImm w))
  | 0x01#5 => .ok (.rspBgez (fieldRs w) (fieldImm w))
  | 0x10#5 => .ok (.rspBltzal (fieldRs w) (fieldImm w))
  | 0x11#5 => .ok (.rspBgezal (fieldRs w) (fieldImm w))
  | _ => .error (.unknownRspWord w)

/-- The vector computational forms: COP2 with bit 25 set, by `funct` (R154). -/
def decodeRspVector (w : Word) : Except Reject Instr :=
  match fieldVectorBit w, fieldFunct w with
  | 1#1, 0x00#6 => .ok (.vmulf (fieldVd w) (fieldRd w) (fieldRt w) (fieldElement w))
  | 1#1, 0x04#6 => .ok (.vmudl (fieldVd w) (fieldRd w) (fieldRt w) (fieldElement w))
  | 1#1, 0x06#6 => .ok (.vmudn (fieldVd w) (fieldRd w) (fieldRt w) (fieldElement w))
  | 1#1, 0x07#6 => .ok (.vmudh (fieldVd w) (fieldRd w) (fieldRt w) (fieldElement w))
  | 1#1, 0x10#6 => .ok (.vadd (fieldVd w) (fieldRd w) (fieldRt w) (fieldElement w))
  | 1#1, 0x11#6 => .ok (.vsub (fieldVd w) (fieldRd w) (fieldRt w) (fieldElement w))
  | 1#1, 0x1D#6 => .ok (.vsar (fieldVd w) (fieldRd w) (fieldRt w) (fieldElement w))
  | _, _ => .error (.unknownRspWord w)

/-- LWC2 and SWC2: only sub-opcode 0x04 is recognised (R154). -/
def decodeRspQuad (w : Word) (quad : Reg → Reg → BitVec 7 → Instr) : Except Reject Instr :=
  match fieldRd w with
  | 0x04#5 => .ok (quad (fieldRt w) (fieldRs w) (fieldVectorOffset w))
  | _ => .error (.unknownRspWord w)

/-- The RSP decoder (R153, R154). -/
def decodeRspWord (w : Word) : Except Reject Instr :=
  match fieldOpcode w with
  | 0x00#6 => decodeRspSpecial w
  | 0x01#6 => decodeRspRegimm w
  | 0x02#6 => .ok (.rspJ (fieldTarget w))
  | 0x03#6 => .ok (.rspJal (fieldTarget w))
  | 0x04#6 => .ok (.rspBeq (fieldRs w) (fieldRt w) (fieldImm w))
  | 0x05#6 => .ok (.rspBne (fieldRs w) (fieldRt w) (fieldImm w))
  | 0x06#6 => .ok (.rspBlez (fieldRs w) (fieldImm w))
  | 0x07#6 => .ok (.rspBgtz (fieldRs w) (fieldImm w))
  | 0x08#6 => .ok (.rspAddi (fieldRt w) (fieldRs w) (fieldImm w))
  | 0x09#6 => .ok (.rspAddiu (fieldRt w) (fieldRs w) (fieldImm w))
  | 0x0A#6 => .ok (.rspSlti (fieldRt w) (fieldRs w) (fieldImm w))
  | 0x0B#6 => .ok (.rspSltiu (fieldRt w) (fieldRs w) (fieldImm w))
  | 0x0C#6 => .ok (.rspAndi (fieldRt w) (fieldRs w) (fieldImm w))
  | 0x0D#6 => .ok (.rspOri (fieldRt w) (fieldRs w) (fieldImm w))
  | 0x0E#6 => .ok (.rspXori (fieldRt w) (fieldRs w) (fieldImm w))
  | 0x0F#6 => .ok (.rspLui (fieldRt w) (fieldImm w))
  | 0x12#6 => decodeRspVector w
  | 0x20#6 => .ok (.rspLb (fieldRt w) (fieldRs w) (fieldImm w))
  | 0x21#6 => .ok (.rspLh (fieldRt w) (fieldRs w) (fieldImm w))
  | 0x23#6 => .ok (.rspLw (fieldRt w) (fieldRs w) (fieldImm w))
  | 0x24#6 => .ok (.rspLbu (fieldRt w) (fieldRs w) (fieldImm w))
  | 0x25#6 => .ok (.rspLhu (fieldRt w) (fieldRs w) (fieldImm w))
  | 0x28#6 => .ok (.rspSb (fieldRt w) (fieldRs w) (fieldImm w))
  | 0x29#6 => .ok (.rspSh (fieldRt w) (fieldRs w) (fieldImm w))
  | 0x2B#6 => .ok (.rspSw (fieldRt w) (fieldRs w) (fieldImm w))
  | 0x32#6 => decodeRspQuad w .lqv
  | 0x3A#6 => decodeRspQuad w .sqv
  | _ => .error (.unknownRspWord w)

/-! ### The RDP (30_encoding R156, R157; 45_rdp R403, R410 to R424) -/

/-- SET_COLOR_IMAGE and SET_TEXTURE_IMAGE hold `width - 1` in `w0[9:0]` (45_rdp R410, R411). -/
def fieldWidth (w0 : Word) : Nat := (w0.extractLsb' 0 10).toNat + 1

/-- The RDP decoder: a leading word and its trailing words (45_rdp R401). The drain has counted
off as many trailing words as RDP_LEN says; those beyond a command's operands are not read. -/
def decodeRdpCommand (w0 : Word) (trailing : List Word) : Except Reject Instr :=
  match fieldOpcode w0, trailing with
  | 0x3F#6, w1 :: _ => .ok (.setColorImage (w0.extractLsb' 21 3) (w0.extractLsb' 19 2) (fieldWidth w0) (w1.extractLsb' 0 26))
  | 0x3D#6, w1 :: _ => .ok (.setTextureImage (w0.extractLsb' 21 3) (w0.extractLsb' 19 2) (fieldWidth w0) (w1.extractLsb' 0 26))
  | 0x37#6, w1 :: _ => .ok (.setFillColor w1)
  | 0x38#6, w1 :: _ => .ok (.setFogColor w1)
  | 0x39#6, w1 :: _ => .ok (.setBlendColor w1)
  | 0x3B#6, w1 :: _ => .ok (.setEnvColor w1)
  | 0x3C#6, w1 :: _ => .ok (.setCombineMode (w0.extractLsb' 0 24) w1)
  | 0x2D#6, w1 :: _ =>
    .ok (.setScissor (w0.extractLsb' 12 12) (w0.extractLsb' 0 12) (w1.extractLsb' 12 12) (w1.extractLsb' 0 12))
  | 0x2F#6, w1 :: _ => .ok (.setOtherModes w1)
  | 0x36#6, w1 :: _ =>
    .ok (.fillRectangle (w0.extractLsb' 12 12) (w0.extractLsb' 0 12) (w1.extractLsb' 12 12) (w1.extractLsb' 0 12))
  | 0x24#6, w1 :: w2 :: w3 :: _ =>
    .ok (.textureRectangle (w0.extractLsb' 12 12) (w0.extractLsb' 0 12) (w1.extractLsb' 24 3)
      (w1.extractLsb' 12 12) (w1.extractLsb' 0 12) (w2.extractLsb' 16 16) (w2.extractLsb' 0 16)
      (w3.extractLsb' 16 16) (w3.extractLsb' 0 16))
  | 0x29#6, _ :: _ => .ok .syncFull
  | op, _ => .error (.unknownRdpOpcode op)

/-! ### Decoding bytes -/

/-- A big-endian 32-bit word (20_memory R87). -/
def wordOfBytes (b0 b1 b2 b3 : Byte) : Word :=
  b0.setWidth 32 <<< 24 ||| b1.setWidth 32 <<< 16 ||| b2.setWidth 32 <<< 8 ||| b3.setWidth 32

/-- The bytes of a word, most significant first (20_memory R87). -/
def bytesOfWord (w : Word) : List Byte :=
  [w.extractLsb' 24 8, w.extractLsb' 16 8, w.extractLsb' 8 8, w.extractLsb' 0 8]

/-- The first `n` words of a list of bytes and the bytes after them, or none if there are fewer. -/
def takeWords : Nat → List Byte → Option (List Word × List Byte)
  | 0, bs => some ([], bs)
  | n + 1, b0 :: b1 :: b2 :: b3 :: bs => (takeWords n bs).map fun (ws, rest) => (wordOfBytes b0 b1 b2 b3 :: ws, rest)
  | _ + 1, _ => none

/-- Decode one instruction of a block from bytes, total on any bytes: the instruction and the bytes after it; an RDP
command has the length of the default RDP_LEN (45_rdp R403). -/
def decodeBytes (b : Block) (bs : List Byte) : Except Reject (Instr × List Byte) :=
  match takeWords 1 bs with
  | some ([w], rest) =>
    match b with
    | .cpu => (decodeCpuWord w).map (·, rest)
    | .rsp => (decodeRspWord w).map (·, rest)
    | .rdp =>
      match takeWords (Params.default.rdpLen (fieldOpcode w)) rest with
      | some (trailing, rest') => (decodeRdpCommand w trailing).map (·, rest')
      | none => .error (.truncated .rdp)
  | _ => .error (.truncated b)

/-! ### Encoding (30_encoding R141, R142, R154; 45_rdp R410 to R424). Fields a row does not use are written 0. -/

/-- R-type: `opcode rs rt rd shamt funct` (R142). -/
def packR (op : BitVec 6) (rs rt rd shamt : BitVec 5) (funct : BitVec 6) : Word :=
  op.setWidth 32 <<< 26 ||| rs.setWidth 32 <<< 21 ||| rt.setWidth 32 <<< 16 ||| rd.setWidth 32 <<< 11
    ||| shamt.setWidth 32 <<< 6 ||| funct.setWidth 32

/-- I-type: `opcode rs rt imm` (R142). -/
def packI (op : BitVec 6) (rs rt : BitVec 5) (imm : BitVec 16) : Word :=
  op.setWidth 32 <<< 26 ||| rs.setWidth 32 <<< 21 ||| rt.setWidth 32 <<< 16 ||| imm.setWidth 32

/-- J-type: `opcode target` (R142). -/
def packJ (op : BitVec 6) (target : BitVec 26) : Word :=
  op.setWidth 32 <<< 26 ||| target.setWidth 32

/-- SYSCALL and BREAK: a 20-bit code in bits 25:6 (R143 (g)). -/
def packCode (code : BitVec 20) (funct : BitVec 6) : Word :=
  code.setWidth 32 <<< 6 ||| funct.setWidth 32

/-- Vector computational: 0x12, bit 25 set, `e vt vs vd funct` (R154). -/
def packV (e : BitVec 4) (vt vs vd : BitVec 5) (funct : BitVec 6) : Word :=
  0x12#32 <<< 26 ||| 1#32 <<< 25 ||| e.setWidth 32 <<< 21 ||| vt.setWidth 32 <<< 16 ||| vs.setWidth 32 <<< 11
    ||| vd.setWidth 32 <<< 6 ||| funct.setWidth 32

/-- LQV and SQV: `opcode base vt 0x04`, element 0, `offset` (R154). -/
def packQ (op : BitVec 6) (base vt : BitVec 5) (off : BitVec 7) : Word :=
  op.setWidth 32 <<< 26 ||| base.setWidth 32 <<< 21 ||| vt.setWidth 32 <<< 16 ||| 0x04#32 <<< 11 ||| off.setWidth 32

/-- The leading word of an RDP command with two 12-bit operands (45_rdp R417, R421, R422). -/
def packPair (op : BitVec 6) (hi lo : BitVec 12) : Word :=
  op.setWidth 32 <<< 26 ||| hi.setWidth 32 <<< 12 ||| lo.setWidth 32

/-- The leading word of SET_COLOR_IMAGE and SET_TEXTURE_IMAGE (45_rdp R410, R411). -/
def packImage (op : BitVec 6) (format : BitVec 3) (size : BitVec 2) (width : Nat) : Word :=
  op.setWidth 32 <<< 26 ||| format.setWidth 32 <<< 21 ||| size.setWidth 32 <<< 19
    ||| (BitVec.ofNat 10 (width - 1)).setWidth 32

/-- Two 16-bit fields of one trailing word (45_rdp R422). -/
def packHalves (hi lo : BitVec 16) : Word :=
  hi.setWidth 32 <<< 16 ||| lo.setWidth 32

/-- The words of an instruction, the leading word first. -/
def encode : Instr → List Word
  | .sll rd rt shamt => [packR 0x00#6 0#5 rt rd shamt 0x00#6]
  | .srl rd rt shamt => [packR 0x00#6 0#5 rt rd shamt 0x02#6]
  | .sra rd rt shamt => [packR 0x00#6 0#5 rt rd shamt 0x03#6]
  | .sllv rd rt rs => [packR 0x00#6 rs rt rd 0#5 0x04#6]
  | .srlv rd rt rs => [packR 0x00#6 rs rt rd 0#5 0x06#6]
  | .srav rd rt rs => [packR 0x00#6 rs rt rd 0#5 0x07#6]
  | .jr rs => [packR 0x00#6 rs 0#5 0#5 0#5 0x08#6]
  | .jalr rd rs => [packR 0x00#6 rs 0#5 rd 0#5 0x09#6]
  | .syscall code => [packCode code 0x0C#6]
  | .brk code => [packCode code 0x0D#6]
  | .mfhi rd => [packR 0x00#6 0#5 0#5 rd 0#5 0x10#6]
  | .mthi rs => [packR 0x00#6 rs 0#5 0#5 0#5 0x11#6]
  | .mflo rd => [packR 0x00#6 0#5 0#5 rd 0#5 0x12#6]
  | .mtlo rs => [packR 0x00#6 rs 0#5 0#5 0#5 0x13#6]
  | .mult rs rt => [packR 0x00#6 rs rt 0#5 0#5 0x18#6]
  | .multu rs rt => [packR 0x00#6 rs rt 0#5 0#5 0x19#6]
  | .div rs rt => [packR 0x00#6 rs rt 0#5 0#5 0x1A#6]
  | .divu rs rt => [packR 0x00#6 rs rt 0#5 0#5 0x1B#6]
  | .add rd rs rt => [packR 0x00#6 rs rt rd 0#5 0x20#6]
  | .addu rd rs rt => [packR 0x00#6 rs rt rd 0#5 0x21#6]
  | .sub rd rs rt => [packR 0x00#6 rs rt rd 0#5 0x22#6]
  | .subu rd rs rt => [packR 0x00#6 rs rt rd 0#5 0x23#6]
  | .and rd rs rt => [packR 0x00#6 rs rt rd 0#5 0x24#6]
  | .or rd rs rt => [packR 0x00#6 rs rt rd 0#5 0x25#6]
  | .xor rd rs rt => [packR 0x00#6 rs rt rd 0#5 0x26#6]
  | .nor rd rs rt => [packR 0x00#6 rs rt rd 0#5 0x27#6]
  | .slt rd rs rt => [packR 0x00#6 rs rt rd 0#5 0x2A#6]
  | .sltu rd rs rt => [packR 0x00#6 rs rt rd 0#5 0x2B#6]
  | .bltz rs off => [packI 0x01#6 rs 0x00#5 off]
  | .bgez rs off => [packI 0x01#6 rs 0x01#5 off]
  | .bltzal rs off => [packI 0x01#6 rs 0x10#5 off]
  | .bgezal rs off => [packI 0x01#6 rs 0x11#5 off]
  | .j target => [packJ 0x02#6 target]
  | .jal target => [packJ 0x03#6 target]
  | .beq rs rt off => [packI 0x04#6 rs rt off]
  | .bne rs rt off => [packI 0x05#6 rs rt off]
  | .blez rs off => [packI 0x06#6 rs 0#5 off]
  | .bgtz rs off => [packI 0x07#6 rs 0#5 off]
  | .addi rt rs imm => [packI 0x08#6 rs rt imm]
  | .addiu rt rs imm => [packI 0x09#6 rs rt imm]
  | .slti rt rs imm => [packI 0x0A#6 rs rt imm]
  | .sltiu rt rs imm => [packI 0x0B#6 rs rt imm]
  | .andi rt rs imm => [packI 0x0C#6 rs rt imm]
  | .ori rt rs imm => [packI 0x0D#6 rs rt imm]
  | .xori rt rs imm => [packI 0x0E#6 rs rt imm]
  | .lui rt imm => [packI 0x0F#6 0#5 rt imm]
  | .lb rt base off => [packI 0x20#6 base rt off]
  | .lh rt base off => [packI 0x21#6 base rt off]
  | .lw rt base off => [packI 0x23#6 base rt off]
  | .lbu rt base off => [packI 0x24#6 base rt off]
  | .lhu rt base off => [packI 0x25#6 base rt off]
  | .lwu rt base off => [packI 0x27#6 base rt off]
  | .sb rt base off => [packI 0x28#6 base rt off]
  | .sh rt base off => [packI 0x29#6 base rt off]
  | .sw rt base off => [packI 0x2B#6 base rt off]
  | .ll rt base off => [packI 0x30#6 base rt off]
  | .sc rt base off => [packI 0x38#6 base rt off]
  | .mfc0 rt rd => [packR 0x10#6 0x00#5 rt rd 0#5 0x00#6]
  | .mtc0 rt rd => [packR 0x10#6 0x04#5 rt rd 0#5 0x00#6]
  | .eret => [packR 0x10#6 0x10#5 0#5 0#5 0#5 0x18#6]
  | .rspSll rd rt shamt => [packR 0x00#6 0#5 rt rd shamt 0x00#6]
  | .rspSrl rd rt shamt => [packR 0x00#6 0#5 rt rd shamt 0x02#6]
  | .rspSra rd rt shamt => [packR 0x00#6 0#5 rt rd shamt 0x03#6]
  | .rspSllv rd rt rs => [packR 0x00#6 rs rt rd 0#5 0x04#6]
  | .rspSrlv rd rt rs => [packR 0x00#6 rs rt rd 0#5 0x06#6]
  | .rspSrav rd rt rs => [packR 0x00#6 rs rt rd 0#5 0x07#6]
  | .rspJr rs => [packR 0x00#6 rs 0#5 0#5 0#5 0x08#6]
  | .rspJalr rd rs => [packR 0x00#6 rs 0#5 rd 0#5 0x09#6]
  | .rspBreak code => [packCode code 0x0D#6]
  | .rspAdd rd rs rt => [packR 0x00#6 rs rt rd 0#5 0x20#6]
  | .rspAddu rd rs rt => [packR 0x00#6 rs rt rd 0#5 0x21#6]
  | .rspSub rd rs rt => [packR 0x00#6 rs rt rd 0#5 0x22#6]
  | .rspSubu rd rs rt => [packR 0x00#6 rs rt rd 0#5 0x23#6]
  | .rspAnd rd rs rt => [packR 0x00#6 rs rt rd 0#5 0x24#6]
  | .rspOr rd rs rt => [packR 0x00#6 rs rt rd 0#5 0x25#6]
  | .rspXor rd rs rt => [packR 0x00#6 rs rt rd 0#5 0x26#6]
  | .rspNor rd rs rt => [packR 0x00#6 rs rt rd 0#5 0x27#6]
  | .rspSlt rd rs rt => [packR 0x00#6 rs rt rd 0#5 0x2A#6]
  | .rspSltu rd rs rt => [packR 0x00#6 rs rt rd 0#5 0x2B#6]
  | .rspBltz rs off => [packI 0x01#6 rs 0x00#5 off]
  | .rspBgez rs off => [packI 0x01#6 rs 0x01#5 off]
  | .rspBltzal rs off => [packI 0x01#6 rs 0x10#5 off]
  | .rspBgezal rs off => [packI 0x01#6 rs 0x11#5 off]
  | .rspJ target => [packJ 0x02#6 target]
  | .rspJal target => [packJ 0x03#6 target]
  | .rspBeq rs rt off => [packI 0x04#6 rs rt off]
  | .rspBne rs rt off => [packI 0x05#6 rs rt off]
  | .rspBlez rs off => [packI 0x06#6 rs 0#5 off]
  | .rspBgtz rs off => [packI 0x07#6 rs 0#5 off]
  | .rspAddi rt rs imm => [packI 0x08#6 rs rt imm]
  | .rspAddiu rt rs imm => [packI 0x09#6 rs rt imm]
  | .rspSlti rt rs imm => [packI 0x0A#6 rs rt imm]
  | .rspSltiu rt rs imm => [packI 0x0B#6 rs rt imm]
  | .rspAndi rt rs imm => [packI 0x0C#6 rs rt imm]
  | .rspOri rt rs imm => [packI 0x0D#6 rs rt imm]
  | .rspXori rt rs imm => [packI 0x0E#6 rs rt imm]
  | .rspLui rt imm => [packI 0x0F#6 0#5 rt imm]
  | .rspLb rt base off => [packI 0x20#6 base rt off]
  | .rspLh rt base off => [packI 0x21#6 base rt off]
  | .rspLw rt base off => [packI 0x23#6 base rt off]
  | .rspLbu rt base off => [packI 0x24#6 base rt off]
  | .rspLhu rt base off => [packI 0x25#6 base rt off]
  | .rspSb rt base off => [packI 0x28#6 base rt off]
  | .rspSh rt base off => [packI 0x29#6 base rt off]
  | .rspSw rt base off => [packI 0x2B#6 base rt off]
  | .vmulf vd vs vt e => [packV e vt vs vd 0x00#6]
  | .vmudl vd vs vt e => [packV e vt vs vd 0x04#6]
  | .vmudn vd vs vt e => [packV e vt vs vd 0x06#6]
  | .vmudh vd vs vt e => [packV e vt vs vd 0x07#6]
  | .vadd vd vs vt e => [packV e vt vs vd 0x10#6]
  | .vsub vd vs vt e => [packV e vt vs vd 0x11#6]
  | .vsar vd vs vt e => [packV e vt vs vd 0x1D#6]
  | .lqv vt base off => [packQ 0x32#6 base vt off]
  | .sqv vt base off => [packQ 0x3A#6 base vt off]
  | .setColorImage format size width addr => [packImage 0x3F#6 format size width, addr.setWidth 32]
  | .setTextureImage format size width addr => [packImage 0x3D#6 format size width, addr.setWidth 32]
  | .setFillColor color => [packJ 0x37#6 0#26, color]
  | .setFogColor color => [packJ 0x38#6 0#26, color]
  | .setBlendColor color => [packJ 0x39#6 0#26, color]
  | .setEnvColor color => [packJ 0x3B#6 0#26, color]
  | .setCombineMode c0 c1 => [packJ 0x3C#6 (c0.setWidth 26), c1]
  | .setScissor xh yh xl yl => [packPair 0x2D#6 xh yh, packPair 0#6 xl yl]
  | .setOtherModes mode => [packJ 0x2F#6 0#26, mode]
  | .fillRectangle xl yl xh yh => [packPair 0x36#6 xl yl, packPair 0#6 xh yh]
  | .textureRectangle xl yl tile xh yh s t dsdx dtdy => [packPair 0x24#6 xl yl, tile.setWidth 32 <<< 24 ||| packPair 0#6 xh yh, packHalves s t, packHalves dsdx dtdy]
  | .syncFull => [packJ 0x29#6 0#26, 0#32]

/-- The block that runs an instruction. -/
def Instr.block : Instr → Block
  | .sll _ _ _ => .cpu
  | .srl _ _ _ => .cpu
  | .sra _ _ _ => .cpu
  | .sllv _ _ _ => .cpu
  | .srlv _ _ _ => .cpu
  | .srav _ _ _ => .cpu
  | .jr _ => .cpu
  | .jalr _ _ => .cpu
  | .syscall _ => .cpu
  | .brk _ => .cpu
  | .mfhi _ => .cpu
  | .mthi _ => .cpu
  | .mflo _ => .cpu
  | .mtlo _ => .cpu
  | .mult _ _ => .cpu
  | .multu _ _ => .cpu
  | .div _ _ => .cpu
  | .divu _ _ => .cpu
  | .add _ _ _ => .cpu
  | .addu _ _ _ => .cpu
  | .sub _ _ _ => .cpu
  | .subu _ _ _ => .cpu
  | .and _ _ _ => .cpu
  | .or _ _ _ => .cpu
  | .xor _ _ _ => .cpu
  | .nor _ _ _ => .cpu
  | .slt _ _ _ => .cpu
  | .sltu _ _ _ => .cpu
  | .bltz _ _ => .cpu
  | .bgez _ _ => .cpu
  | .bltzal _ _ => .cpu
  | .bgezal _ _ => .cpu
  | .j _ => .cpu
  | .jal _ => .cpu
  | .beq _ _ _ => .cpu
  | .bne _ _ _ => .cpu
  | .blez _ _ => .cpu
  | .bgtz _ _ => .cpu
  | .addi _ _ _ => .cpu
  | .addiu _ _ _ => .cpu
  | .slti _ _ _ => .cpu
  | .sltiu _ _ _ => .cpu
  | .andi _ _ _ => .cpu
  | .ori _ _ _ => .cpu
  | .xori _ _ _ => .cpu
  | .lui _ _ => .cpu
  | .lb _ _ _ => .cpu
  | .lh _ _ _ => .cpu
  | .lw _ _ _ => .cpu
  | .lbu _ _ _ => .cpu
  | .lhu _ _ _ => .cpu
  | .lwu _ _ _ => .cpu
  | .sb _ _ _ => .cpu
  | .sh _ _ _ => .cpu
  | .sw _ _ _ => .cpu
  | .ll _ _ _ => .cpu
  | .sc _ _ _ => .cpu
  | .mfc0 _ _ => .cpu
  | .mtc0 _ _ => .cpu
  | .eret => .cpu
  | .rspSll _ _ _ => .rsp
  | .rspSrl _ _ _ => .rsp
  | .rspSra _ _ _ => .rsp
  | .rspSllv _ _ _ => .rsp
  | .rspSrlv _ _ _ => .rsp
  | .rspSrav _ _ _ => .rsp
  | .rspJr _ => .rsp
  | .rspJalr _ _ => .rsp
  | .rspBreak _ => .rsp
  | .rspAdd _ _ _ => .rsp
  | .rspAddu _ _ _ => .rsp
  | .rspSub _ _ _ => .rsp
  | .rspSubu _ _ _ => .rsp
  | .rspAnd _ _ _ => .rsp
  | .rspOr _ _ _ => .rsp
  | .rspXor _ _ _ => .rsp
  | .rspNor _ _ _ => .rsp
  | .rspSlt _ _ _ => .rsp
  | .rspSltu _ _ _ => .rsp
  | .rspBltz _ _ => .rsp
  | .rspBgez _ _ => .rsp
  | .rspBltzal _ _ => .rsp
  | .rspBgezal _ _ => .rsp
  | .rspJ _ => .rsp
  | .rspJal _ => .rsp
  | .rspBeq _ _ _ => .rsp
  | .rspBne _ _ _ => .rsp
  | .rspBlez _ _ => .rsp
  | .rspBgtz _ _ => .rsp
  | .rspAddi _ _ _ => .rsp
  | .rspAddiu _ _ _ => .rsp
  | .rspSlti _ _ _ => .rsp
  | .rspSltiu _ _ _ => .rsp
  | .rspAndi _ _ _ => .rsp
  | .rspOri _ _ _ => .rsp
  | .rspXori _ _ _ => .rsp
  | .rspLui _ _ => .rsp
  | .rspLb _ _ _ => .rsp
  | .rspLh _ _ _ => .rsp
  | .rspLw _ _ _ => .rsp
  | .rspLbu _ _ _ => .rsp
  | .rspLhu _ _ _ => .rsp
  | .rspSb _ _ _ => .rsp
  | .rspSh _ _ _ => .rsp
  | .rspSw _ _ _ => .rsp
  | .vmulf _ _ _ _ => .rsp
  | .vmudl _ _ _ _ => .rsp
  | .vmudn _ _ _ _ => .rsp
  | .vmudh _ _ _ _ => .rsp
  | .vadd _ _ _ _ => .rsp
  | .vsub _ _ _ _ => .rsp
  | .vsar _ _ _ _ => .rsp
  | .lqv _ _ _ => .rsp
  | .sqv _ _ _ => .rsp
  | .setColorImage _ _ _ _ => .rdp
  | .setTextureImage _ _ _ _ => .rdp
  | .setFillColor _ => .rdp
  | .setFogColor _ => .rdp
  | .setBlendColor _ => .rdp
  | .setEnvColor _ => .rdp
  | .setCombineMode _ _ => .rdp
  | .setScissor _ _ _ _ => .rdp
  | .setOtherModes _ => .rdp
  | .fillRectangle _ _ _ _ => .rdp
  | .textureRectangle _ _ _ _ _ _ _ _ _ => .rdp
  | .syncFull => .rdp

/-! ### The opcode table's words (log 14)

A row of spec/opcode_table.json is known by its first word alone, and one word is an instruction of more than one
block: 45 RSP rows have exactly a CPU row's words, and SET_FOG_COLOR, TEXTURE_RECTANGLE and SYNC_FULL share theirs
with SC, LBU and SH. The first block that recognises the word answers: the CPU, then the RSP, then the RDP. -/

/-- The words that `w` lays out, the first in its low 32 bits, every bit from `nbits` up being 0; four words, the
length of the longest recognised instruction. -/
def tableWords (nbits w : Nat) : List Word :=
  let v := w % 2 ^ nbits
  [BitVec.ofNat 32 v, BitVec.ofNat 32 (v / 2 ^ 32), BitVec.ofNat 32 (v / 2 ^ 64), BitVec.ofNat 32 (v / 2 ^ 96)]

/-- The same as bytes, as memory holds them. -/
def tableBytes (nbits w : Nat) : List Byte := (tableWords nbits w).flatMap bytesOfWord

/-- The first block that recognises the bytes, with its instruction. -/
def decodeFirst (bs : List Byte) : Option (Block × Instr) :=
  match decodeBytes .cpu bs with
  | .ok (i, _) => some (.cpu, i)
  | .error _ =>
    match decodeBytes .rsp bs with
    | .ok (i, _) => some (.rsp, i)
    | .error _ =>
      match decodeBytes .rdp bs with
      | .ok (i, _) => some (.rdp, i)
      | .error _ => none

/-- The instruction read from an instruction whose bits are `w`, numbered as the opcode table numbers them. -/
def decodeTableWord (nbits w : Nat) : Option Instr := (decodeFirst (tableBytes nbits w)).map (·.2)

end Sys2Proof
end

