-- ==== Sys2Proof/Machine/State.lean ====
section
/-! DEFINITION. The state of the CORE as plain data: every item of spec 10_state, the calls the host is going to make
(log 1), what the last call returned (log 3), and the parameters the machine is built with (log 31). -/

namespace Sys2Proof.Machine

/-- Byte-addressed memory: (address, byte) pairs, addresses strictly rising, no zero byte listed; an unlisted address
reads 0 (10_state R54: "at construction ... zero-filled"; log 7). -/
abbrev Memory := List Host.Cell

/-- The RDP framebuffer: (y * FB_WIDTH + x, pixel) pairs in the same form; an unlisted pixel is 0 (10_state R50). -/
abbrev Pixels := List (Nat × Word)

/-- The CPU (10_state R20 to R38). -/
structure Cpu where
  /-- General registers (R20). -/
  x : Vector DWord 32
  /-- Program counter (R21). -/
  pc : Word
  /-- 1 when the instruction at `pc` is the delay slot of a taken branch (R22). -/
  delayFlag : Bool
  /-- Where `pc` goes after that slot (R22). -/
  pendingTarget : Word
  /-- HI (R23). -/
  hi : DWord
  /-- LO (R23). -/
  lo : DWord
  /-- The linked flag of LL and SC (R24). -/
  llFlag : Bool
  /-- The interrupt lines: video 0, serial 1, peripheral 2, audio 3 (R25). -/
  irq : BitVec 4
  /-- COP0, 32 slots (R31). -/
  cop0 : Vector Word 32
  /-- The FPU register file, "present but not functionally exercised" (R30). -/
  fpr : Vector DWord 32
deriving DecidableEq, Repr

/-- The RSP run state (10_state R46). -/
inductive RunState where
  | running | halted | broke
deriving DecidableEq, Repr

/-- The RSP (10_state R43 to R47). -/
structure Rsp where
  /-- Scalar registers (R43). -/
  x : Vector Word 32
  pc : Local
  delayFlag : Bool
  pendingTarget : Local
  /-- Vector registers, eight lanes each (R45). -/
  v : Vector (Vector Lane 8) 32
  run : RunState
  imem : Memory
  dmem : Memory
  /-- The latch SP_MEM_ADDR (R47). -/
  memAddr : Local
  /-- The latch SP_DRAM_ADDR (R47). -/
  dramAddr : BitVec 24
deriving DecidableEq, Repr

/-- The RDP (10_state R48 to R51). -/
structure Rdp where
  queue : List Word
  render : RenderState
  fb : Pixels
  /-- The latch DPC_START (R51). -/
  dpcStart : BitVec 24
deriving DecidableEq, Repr

/-- A constructed Cartridge (20_memory R110, R111): its immutable ROM, the header fields, and the save buffer. -/
structure Cartridge where
  rom : List Byte
  clockRate : Byte
  entryPoint : Word
  crc1 : Word
  crc2 : Word
  title : List Byte
  region : GameRegion
  saveType : SaveType
  save : Memory
deriving DecidableEq, Repr

/-- Why a Cartridge is not built (20_memory R110 (1) to (4)). -/
inductive CartError where
  | tooShort | badMagic | badClock | badEntry
deriving DecidableEq, Repr

/-- The four named interrupt lines (60_exceptions R470). -/
inductive IrqLine where
  | video | serial | peripheral | audio
deriving DecidableEq, Repr

/-- The widths of an access (20_memory R91). -/
inductive Access where
  | byte | half | word
deriving DecidableEq, Repr

/-- The ports of 00_scope R11, each one atomic transition. -/
inductive PortCall where
  /-- `reset()` (70_reset R500). -/
  | reset
  /-- CPU `step()` (40 R180). -/
  | cpuStep
  /-- `irq_set(line)` (60 R470). -/
  | irqSet (line : IrqLine)
  /-- `irq_clear(line)` (60 R470). -/
  | irqClear (line : IrqLine)
  /-- RSP `executeFrame()` (44 R325). -/
  | executeFrame
  /-- RSP `step()` (44 R326). -/
  | rspStep
  /-- `dma_to_dmem(dram, dmem, n)` (44 R380). -/
  | dmaToDmem (dram dmem n : Nat)
  /-- `dma_from_dmem(dram, dmem, n)` (44 R381). -/
  | dmaFromDmem (dram dmem n : Nat)
  /-- RSP `kick()` (44 R327). -/
  | kick
  /-- RSP `halt()` (44 R327). -/
  | halt
  /-- RDP `enqueue(word)` (45 R400). -/
  | enqueue (w : Word)
  /-- RDP `processCommands()` (45 R401). -/
  | processCommands
  /-- The framebuffer read (45 R430). -/
  | readFrame
  /-- Cartridge construction from a ROM image (20 R110). -/
  | construct (image : List Byte)
  /-- `cart.set_bank(n)` (20 R116). -/
  | setBank (n : Nat)
  /-- `save_read(off, n)` (20 R120). -/
  | saveRead (off : Nat) (n : Access)
  /-- `save_write(off, n, v)` (20 R121). -/
  | saveWrite (off : Nat) (n : Access) (v : Word)
  /-- `save_load(bytes)` (20 R123). -/
  | saveLoad (bytes : List Byte)
  /-- `save_persist()` (20 R124). -/
  | savePersist
deriving DecidableEq, Repr

/-- What a port call returns to its caller. -/
inductive Reply where
  /-- No call has been made yet. -/
  | none
  /-- The call returns nothing. -/
  | done
  /-- The cycle-cost estimate of a CPU step (40 R186). -/
  | cycles (n : Nat)
  /-- The value of a save read (20 R120). -/
  | value (v : Word)
  /-- The bytes of a persist (20 R124). -/
  | bytes (bs : List Byte)
  /-- The raw framebuffer: pixel buffer, width, height and pixel format (45 R430). -/
  | frame (pixels : Pixels) (width height : Nat) (format : PixelFormat)
  /-- Whether a bulk load succeeded (20 R123). -/
  | loaded (ok : Bool)
  /-- A Cartridge was built, or the error that construction returned (20 R110). -/
  | cartridge (error : Option CartError)
deriving DecidableEq, Repr

/-- The machine. -/
structure State where
  /-- The implementation parameters the machine is built with; no step changes them (00_scope R6; log 31). -/
  params : Params
  cpu : Cpu
  rsp : Rsp
  rdp : Rdp
  /-- RDRAM, RDRAM_SIZE bytes (10_state R40). -/
  rdram : Memory
  /-- The bank-select register (10_state R41). -/
  bank : Nat
  /-- The Cartridge, once the host has constructed one (log 4). -/
  cart : Option Cartridge
  /-- The port calls the host makes next, in order; when the list is empty it calls CPU `step()` (logs 1 and 2). -/
  calls : List PortCall
  /-- What the last port call returned (log 3). -/
  reply : Reply
deriving DecidableEq, Repr

/-- The machine never stops with a fault: "every state has a successor under `step()`" (93_implementation_defined,
after U35; log 24). Its exceptions are next states. Nobody raises a fault, which is safe. -/
inductive Fault where
deriving DecidableEq, Repr

/-- The reasons to refuse an instruction. -/
inductive Refusal where
  /-- Raised by exec's arm of an instruction that has no meaning yet, by its mnemonic; safe, since nothing is claimed
  of it. No arm raises it: every instruction has its meaning. -/
  | notModelled (mnemonic : String)
deriving DecidableEq, Repr

/-- What a meaning and a port call answer. -/
abbrev Result := Host.Outcome State Fault Refusal

/-- COP0 after reset: Status, PRId and Config preset, every other slot 0 (10_state R54). -/
def Cpu.resetCop0 (p : Params) : Vector Word 32 :=
  (((Vector.replicate 32 0#32).set 12 p.resetStatus).set 15 p.pridValue).set 16 p.configValue

/-- The CPU after reset (10_state R54). The FPU file is zero: R54 leaves it "unspecified" (DESIGN CHOICE, log 8). -/
def Cpu.reset (p : Params) : Cpu where
  x := Vector.replicate 32 0#64
  pc := p.resetPc
  delayFlag := false
  pendingTarget := 0#32
  hi := 0#64
  lo := 0#64
  llFlag := false
  irq := 0#4
  cop0 := Cpu.resetCop0 p
  fpr := Vector.replicate 32 0#64

/-- The RSP after construction and reset (10_state R54). -/
def Rsp.reset : Rsp where
  x := Vector.replicate 32 0#32
  pc := 0#12
  delayFlag := false
  pendingTarget := 0#12
  v := Vector.replicate 32 (Vector.replicate 8 0#16)
  run := .halted
  imem := []
  dmem := []
  memAddr := 0#12
  dramAddr := 0#24

/-- An image descriptor after reset: all fields 0, the width 1 (10_state R49). -/
def ImageDesc.reset : ImageDesc where
  format := 0#3
  size := 0#2
  width := 1
  addr := 0#26

/-- The render state after reset (10_state R49, R54). -/
def RenderState.reset : RenderState where
  fillColor := 0#32
  blendColor := 0#32
  fogColor := 0#32
  envColor := 0#32
  combine0 := 0#24
  combine1 := 0#32
  texImage := ImageDesc.reset
  colorImage := ImageDesc.reset
  scissor := ⟨0#12, 0#12, 0#12, 0#12⟩
  renderMode := 0#32

/-- The RDP after reset (10_state R54). -/
def Rdp.reset : Rdp where
  queue := []
  render := RenderState.reset
  fb := []
  dpcStart := 0#24

/-- The machine with parameters `p` right after construction and `reset()` (10_state R54, 70_reset R500 to R502): no
cartridge (log 4), no call scheduled (log 2). -/
def State.init (p : Params) : State where
  params := p
  cpu := Cpu.reset p
  rsp := Rsp.reset
  rdp := Rdp.reset
  rdram := []
  bank := 0
  cart := none
  calls := []
  reply := .none

/-- The machine right after reset, every parameter at its default (00_scope R6; log 6). -/
def State.reset : State := State.init Params.default

end Sys2Proof.Machine
end

