-- ==== Sys2Proof/Machine/Store.lean ====
section
/-! DEFINITION. The one representation of byte memories and of the framebuffer: a list of (key, value) pairs, keys
strictly rising, no zero value listed; an unlisted key reads 0 (10_state R54; log 7). Byte order is decided here, once
(20_memory R87). -/

namespace Sys2Proof.Machine

/-- The value at key `a`; an unlisted key reads 0. -/
def Store.get (m : List (Nat × BitVec w)) (a : Nat) : BitVec w :=
  match m with
  | [] => 0#w
  | cell :: rest => if cell.1 = a then cell.2 else Store.get rest a

/-- Insert a cell before the first larger key. -/
def Store.insert (m : List (Nat × BitVec w)) (a : Nat) (v : BitVec w) : List (Nat × BitVec w) :=
  match m with
  | [] => [(a, v)]
  | cell :: rest => if cell.1 < a then cell :: Store.insert rest a v else (a, v) :: cell :: rest

/-- Take key `a` out. -/
def Store.erase (m : List (Nat × BitVec w)) (a : Nat) : List (Nat × BitVec w) :=
  m.filter fun cell => decide (cell.1 ≠ a)

/-- Write `v` at key `a`, keeping the canonical form: writing 0 lists nothing. -/
def Store.put (m : List (Nat × BitVec w)) (a : Nat) (v : BitVec w) : List (Nat × BitVec w) :=
  if v = 0#w then Store.erase m a else Store.insert (Store.erase m a) a v

/-- Read a store of `size` keys: zero outside it (20_memory R83, R86, R101, R120). -/
def Store.peek (m : List (Nat × BitVec w)) (size a : Nat) : BitVec w :=
  if a < size then Store.get m a else 0#w

/-- Write a store of `size` keys: discarded outside it (20_memory R83, R86, R101, R121). -/
def Store.poke (m : List (Nat × BitVec w)) (size a : Nat) (v : BitVec w) : List (Nat × BitVec w) :=
  if a < size then Store.put m a v else m

/-- The canonical form: keys strictly rising, no zero value listed. -/
abbrev Store.Canonical (m : List (Nat × BitVec w)) : Prop :=
  m.Pairwise (fun c d => c.1 < d.1) ∧ ∀ c ∈ m, c.2 ≠ 0#w

/-- Every key is below `size`. -/
abbrev Store.Below (m : List (Nat × BitVec w)) (size : Nat) : Prop :=
  ∀ c ∈ m, c.1 < size

/-- A memory is in its canonical form. -/
abbrev Memory.wf (m : Memory) : Prop := Store.Canonical m

/-- The store that holds a list of bytes from key `a` on. -/
def Store.ofBytes (a : Nat) (bs : List Byte) : Memory :=
  match bs with
  | [] => []
  | b :: rest => if b = 0#8 then Store.ofBytes (a + 1) rest else (a, b) :: Store.ofBytes (a + 1) rest

/-- The number of bytes of an access (20_memory R91). -/
def Access.size : Access → Nat
  | .byte => 1
  | .half => 2
  | .word => 4

/-- Byte `i` of the low `8n` bits of `v`, most significant first: `v[8(n-i)-1 : 8(n-i-1)]` (20_memory R85). -/
def byteOf (n : Nat) (v : Word) (i : Nat) : Byte :=
  (v >>> (8 * (n - 1 - i))).setWidth 8

/-- `b0 ++ b1 ++ ... ++ b(n-1)`, in the low `8n` bits of a word (20_memory R84). -/
def joinBytes (f : Nat → Byte) (n : Nat) : Word :=
  (List.range n).foldl (fun acc i => acc <<< 8 ||| (f i).setWidth 32) 0#32

/-- Write the low `8n` bits of `v`, byte `i` at the place `loc i`, in a store of `size` bytes (20_memory R85). -/
def writeBytes (m : Memory) (size : Nat) (loc : Nat → Nat) (n : Nat) (v : Word) : Memory :=
  (List.range n).foldl (fun acc i => Store.poke acc size (loc i) (byteOf n v i)) m

end Sys2Proof.Machine
end

