-- ==== Sys2Proof/Machine/Cartridge.lean ====
section
/-! DEFINITION. The Cartridge (20_memory R110 to R125): building one from a ROM image, banked ROM reads, and the save
buffer. What R6 leaves open comes in as arguments. -/

namespace Sys2Proof.Machine

/-! ### Construction (R110 to R113, R118) -/

/-- Swap every pair of bytes; a trailing odd byte stays (R113). -/
def swapPairs : List Byte → List Byte
  | b0 :: b1 :: rest => b1 :: b0 :: swapPairs rest
  | rest => rest

/-- Reverse every group of four bytes; trailing bytes stay (R113). -/
def reverseQuads : List Byte → List Byte
  | b0 :: b1 :: b2 :: b3 :: rest => b3 :: b2 :: b1 :: b0 :: reverseQuads rest
  | rest => rest

/-- The image in the first magic ordering, or none if bytes 0 to 3 are no recognised magic (R113; the second and third
PRESUMED, log 26). -/
def normaliseImage (image : List Byte) : Option (List Byte) :=
  if image.take 4 = [0x80#8, 0x37#8, 0x12#8, 0x40#8] then some image
  else if image.take 4 = [0x37#8, 0x80#8, 0x40#8, 0x12#8] then some (swapPairs image)
  else if image.take 4 = [0x40#8, 0x12#8, 0x37#8, 0x80#8] then some (reverseQuads image)
  else none

/-- A big-endian field of the header (R111). -/
def headerWord (image : List Byte) (off : Nat) : Word :=
  joinBytes (fun i => image.getD (off + i) 0#8) 4

/-- The padding that the title is trimmed of: space and NUL (R111; DESIGN CHOICE, log 6). -/
def isTitlePad (b : Byte) : Bool := b = 0x20#8 || b = 0x00#8

/-- Leading and trailing padding removed (R111). -/
def trimTitle (bs : List Byte) : List Byte :=
  ((bs.dropWhile isTitlePad).reverse.dropWhile isTitlePad).reverse

/-- Whether one list of bytes occurs in another (R118). -/
def occursIn (sub : List Byte) : List Byte → Bool
  | [] => sub.isEmpty
  | b :: rest => sub.isPrefixOf (b :: rest) || occursIn sub rest

/-- The type of the first entry whose substring occurs in the trimmed title, or none (R118). -/
def saveTypeOf (table : List (List Byte × SaveType)) (title : List Byte) : SaveType :=
  match table.find? (fun entry => occursIn entry.1 title) with
  | some entry => entry.2
  | none => .none

/-- The title "MYSTERY GAME", which is unlisted in every admissible SAVE_TITLE_TABLE (R118; U26 of
93_implementation_defined). -/
def mysteryGame : List Byte :=
  [0x4D#8, 0x59#8, 0x53#8, 0x54#8, 0x45#8, 0x52#8, 0x59#8, 0x20#8, 0x47#8, 0x41#8, 0x4D#8, 0x45#8]

/-- SAVE_TITLE_TABLE: any admissible table, and nothing else is known of it (R118, U26; a free value, log 11). -/
def saveTitleTable : List (List Byte × SaveType) :=
  if saveTypeOf Config.openTitleTable mysteryGame = .none then Config.openTitleTable else []

/-- Steps (5) and (6) of construction: the header fields, the save type, a zero-filled save buffer (R110, R111). -/
def cartridgeOf (p : Params) (table : List (List Byte × SaveType)) (rom : List Byte) : Cartridge where
  rom := rom
  clockRate := rom.getD 0x04 0#8
  entryPoint := headerWord rom 0x08
  crc1 := headerWord rom 0x10
  crc2 := headerWord rom 0x14
  title := trimTitle ((rom.drop 0x20).take 20)
  region := p.regionOf (rom.getD 0x3F 0#8)
  saveType := saveTypeOf table (trimTitle ((rom.drop 0x20).take 20))
  save := []

/-- Construction from a ROM image: the four checks in order, then the fields (R110). A failure yields no Cartridge. -/
def constructCartridge (p : Params) (table : List (List Byte × SaveType)) (image : List Byte) :
    Except CartError Cartridge :=
  if image.length < 0x40 then .error .tooShort
  else
    match normaliseImage image with
    | none => .error .badMagic
    | some rom =>
      if p.clockPlausible (rom.getD 0x04 0#8) = false then .error .badClock
      else if p.entryInWindow (headerWord rom 0x08) = false then .error .badEntry
      else .ok (cartridgeOf p table rom)

/-! ### ROM reads (R114) -/

/-- The clamped, banked offset of an access of `n` bytes at `off` (R114). -/
def Cartridge.effectiveOffset (c : Cartridge) (bank off n : Nat) : Nat :=
  min
    (if Config.bankSize < c.rom.length then
      min bank ((c.rom.length + Config.bankSize - 1) / Config.bankSize - 1) * Config.bankSize + off
    else off)
    (c.rom.length - n)

/-- A ROM read (R114). -/
def Cartridge.romRead (c : Cartridge) (bank off : Nat) (n : Access) : Word :=
  joinBytes (fun i => c.rom.getD (c.effectiveOffset bank off n.size + i) 0#8) n.size

/-! ### The save buffer (R120 to R124). `size` is SAVE_SIZE of the Cartridge's type, 0 for type none. -/

/-- `save_read(off, n)`: bytes at or beyond the buffer size read 0; a buffer of type none has size 0 (R120, R122). -/
def Cartridge.saveRead (size : Nat) (c : Cartridge) (off : Nat) (n : Access) : Word :=
  joinBytes (fun i => Store.peek c.save size (off + i)) n.size

/-- `save_write(off, n, v)`: bytes at or beyond the buffer size are discarded (R121, R122). -/
def Cartridge.saveWrite (size : Nat) (c : Cartridge) (off : Nat) (n : Access) (v : Word) : Cartridge :=
  { c with save := writeBytes c.save size (fun i => off + i) n.size v }

/-- `save_load(bytes)`: the whole buffer if the length is the buffer's, else nothing (R123). -/
def Cartridge.saveLoad (size : Nat) (c : Cartridge) (bytes : List Byte) : Option Cartridge :=
  if bytes.length = size then some { c with save := Store.ofBytes 0 bytes } else none

/-- `save_persist()`: a copy of the buffer (R124). -/
def Cartridge.savePersist (size : Nat) (c : Cartridge) : List Byte :=
  (List.range size).map (Store.get c.save)

end Sys2Proof.Machine
end

