-- ==== Sys2Proof/Machine/Flags.lean ====
section
/-! DEFINITION. Every condition the CORE computes: overflow (40 R188), comparisons (40 R187), the Status and Cause fields
(10_state R32 to R35) and the interrupt condition (60 R471). There are no condition codes (10_state R26). -/

namespace Sys2Proof.Machine

/-- `add_overflow(a, b)`: the operands agree in sign and the sum does not (40 R188). -/
def addOverflow (a b : Word) : Bool :=
  (a.msb == b.msb) && ((a + b).msb != a.msb)

/-- `sub_overflow(a, b)`: the operands differ in sign and the difference has not the sign of `a` (40 R188). -/
def subOverflow (a b : Word) : Bool :=
  (a.msb != b.msb) && ((a - b).msb != a.msb)

/-- The result of a comparison, 1 or 0 (40 R210 to R213, 44 R338). -/
def boolWord (w : Nat) (c : Bool) : BitVec w := if c then 1#w else 0#w

/-- `signed(v) < 0` (42 R280, 44 R367). -/
def isNegative (v : BitVec w) : Bool := v.slt 0#w

/-- `signed(v) >= 0` (42 R281, 44 R368). -/
def isNonNegative (v : BitVec w) : Bool := (0#w).sle v

/-- `signed(v) <= 0` (42 R276, 44 R365). -/
def isNonPositive (v : BitVec w) : Bool := v.sle 0#w

/-- `signed(v) > 0` (42 R277, 44 R366). -/
def isPositive (v : BitVec w) : Bool := (0#w).slt v

/-- Status.IE, bit 0: interrupt enable (10_state R32; PRESUMED position, log 26). -/
def statusIe (status : Word) : Bool := status.getLsbD 0

/-- Status.EL, bit 1: the error-level bit (10_state R33; PRESUMED position, log 26). -/
def statusEl (status : Word) : Bool := status.getLsbD 1

/-- Status.BEV, bit 22: bootstrap-vector select (10_state R32; PRESUMED position, log 26). -/
def statusBev (status : Word) : Bool := status.getLsbD 22

/-- Status with EL set (60 R460). -/
def statusSetEl (status : Word) : Word := status ||| 0x00000002#32

/-- Status with EL cleared (43 R304). -/
def statusClearEl (status : Word) : Word := status &&& 0xFFFFFFFD#32

/-- The cause codes (60 R450). Int, Sys, Bp, RI and Ov are the raised set (R457); the others exist and are never raised
(R458). -/
inductive ExcCode where
  | int | mod | tlbl | tlbs | adel | ades | ibe | dbe | sys | bp | ri | cpu | ov | tr | fpe
deriving DecidableEq, Repr

/-- The 5-bit number of a cause (60 R450). -/
def excNumber : ExcCode → BitVec 5
  | .int => 0#5
  | .mod => 1#5
  | .tlbl => 2#5
  | .tlbs => 3#5
  | .adel => 4#5
  | .ades => 5#5
  | .ibe => 6#5
  | .dbe => 7#5
  | .sys => 8#5
  | .bp => 9#5
  | .ri => 10#5
  | .cpu => 11#5
  | .ov => 12#5
  | .tr => 13#5
  | .fpe => 15#5

/-- Cause.ExcCode, bits 6:2 (10_state R34). -/
def causeExcCode (cause : Word) : BitVec 5 := cause.extractLsb' 2 5

/-- Cause.BD, bit 31 (10_state R34). -/
def causeBd (cause : Word) : Bool := cause.getLsbD 31

/-- Cause after exception entry: ExcCode and BD written, "other Cause bits unchanged" (60 R460). -/
def causeEntry (old : Word) (inSlot : Bool) (c : ExcCode) : Word :=
  (old &&& 0x7FFFFF83#32) ||| (if inSlot then 0x80000000#32 else 0#32) ||| ((excNumber c).setWidth 32 <<< 2)

/-- The read view of Cause: bit 10 says whether any line is pending (10_state R35). -/
def causeView (cause : Word) (irq : BitVec 4) : Word :=
  (cause &&& 0xFFFFFBFF#32) ||| (if irq = 0#4 then 0#32 else 0x00000400#32)

/-- The interrupt condition: a line pending, IE = 1, EL = 0 (60 R471). No mask is consulted (60 R472). -/
def interruptDue (irq : BitVec 4) (status : Word) : Bool :=
  irq != 0#4 && statusIe status && !statusEl status

end Sys2Proof.Machine
end

