-- ==== Sys2Proof/Machine/Rsp.lean ====
section
/-! DEFINITION. The named operations over the RSP (spec 44_rsp): registers, local memories, the end of a step, the run
state, and the two DMA primitives. Also the register file access that the CPU shares, and RDRAM bytes. -/

namespace Sys2Proof.Machine

/-- Read a register of a file of 32: register 0 reads 0 (10_state R20, R43). -/
def regRead (f : Vector (BitVec w) 32) (r : Reg) : BitVec w :=
  if r = 0#5 then 0#w else f[r.toNat]'r.isLt

/-- Write a register of a file of 32: a write to register 0 is discarded (10_state R20, R43). -/
def regWrite (f : Vector (BitVec w) 32) (r : Reg) (v : BitVec w) : Vector (BitVec w) 32 :=
  f.set r.toNat (if r = 0#5 then f[r.toNat]'r.isLt else v) r.isLt

/-! ### RDRAM bytes (20_memory R83) -/

/-- `RdramReadByte(a)`: 0 outside RDRAM. -/
def State.rdramReadByte (s : State) (a : Nat) : Byte :=
  Store.peek s.rdram s.params.rdramSize a

/-- `RdramWriteByte(a, b)`: nothing outside RDRAM. -/
def State.rdramWriteByte (s : State) (a : Nat) (b : Byte) : State :=
  { s with rdram := Store.poke s.rdram s.params.rdramSize a b }

/-! ### Registers -/

/-- `r[n]`, an RSP scalar register. -/
def State.getR (s : State) (r : Reg) : Word := regRead s.rsp.x r

/-- `r[n] <- v`. -/
def State.setR (s : State) (r : Reg) (v : Word) : State :=
  { s with rsp := { s.rsp with x := regWrite s.rsp.x r v } }

/-- `v[n]`, a vector register: no register is hardwired (10_state R45). -/
def State.getV (s : State) (r : Reg) : Vector Lane 8 := s.rsp.v[r.toNat]'r.isLt

/-- Write all eight lanes of a vector register. -/
def State.setV (s : State) (r : Reg) (lanes : Vector Lane 8) : State :=
  { s with rsp := { s.rsp with v := s.rsp.v.set r.toNat lanes r.isLt } }

/-! ### Local memories (44 R322, R323) -/

/-- `DmemRead(a, n)`: the address wraps in the 4 KB window byte by byte. -/
def State.dmemRead (s : State) (a : Nat) (n : Access) : Word :=
  joinBytes (fun i => Store.get s.rsp.dmem ((a + i) % Config.localSize)) n.size

/-- `DmemWrite(a, n, v)`: the address wraps in the 4 KB window byte by byte. -/
def State.dmemWrite (s : State) (a : Nat) (n : Access) (v : Word) : State :=
  { s with rsp := { s.rsp with
      dmem := writeBytes s.rsp.dmem Config.localSize (fun i => (a + i) % Config.localSize) n.size v } }

/-- `ImemRead(a)`: the word at `a & 0xFFC`. -/
def State.imemRead (s : State) (a : Local) : Word :=
  joinBytes (fun i => Store.get s.rsp.imem ((a &&& 0xFFC#12).toNat + i)) 4

/-! ### The end of an RSP step (44 R320, R324) -/

/-- `rsp_branch(T)` writes the pending target; `taken` is the argument of the advance. -/
def State.rspBranch (s : State) (t : Local) : State :=
  { s with rsp := { s.rsp with pendingTarget := t } }

/-- The advance: out of a slot to the pending target, else to the next word, arming the flag if a branch was taken. -/
def State.rspAdvance (s : State) (taken : Bool) : State :=
  { s with rsp := { s.rsp with
      pc := if s.rsp.delayFlag then s.rsp.pendingTarget else (s.rsp.pc + 4#12) &&& 0xFFC#12
      delayFlag := !s.rsp.delayFlag && taken } }

/-- An RSP instruction that is no taken branch ends. -/
def State.rspRetire (s : State) : State := s.rspAdvance false

/-- An RSP branch to `t` ends: taken if the condition holds. -/
def State.rspRetireIf (s : State) (taken : Bool) (t : Local) : State :=
  if taken then (s.rspBranch t).rspAdvance true else s.rspAdvance false

/-! ### Run state (44 R327) -/

/-- Set the run state, nothing else. -/
def State.setRun (s : State) (r : RunState) : State :=
  { s with rsp := { s.rsp with run := r } }

/-- `kick()`. -/
def State.kick (s : State) : State := s.setRun .running

/-- `halt()`. -/
def State.halt (s : State) : State := s.setRun .halted

/-! ### DMA (44 R380, R381) -/

/-- `dma_to_dmem(dram, dmem_addr, n)`: byte by byte, in order. -/
def State.dmaToDmem (s : State) (dram dmemAddr n : Nat) : State :=
  { s with rsp := { s.rsp with
      dmem := (List.range n).foldl
        (fun m i => Store.put m ((dmemAddr + i) % Config.localSize) (s.rdramReadByte (dram + i))) s.rsp.dmem } }

/-- `dma_from_dmem(dram, dmem_addr, n)`: byte by byte, in order. -/
def State.dmaFromDmem (s : State) (dram dmemAddr n : Nat) : State :=
  { s with
      rdram := (List.range n).foldl
        (fun m i => Store.poke m s.params.rdramSize (dram + i)
          (Store.get s.rsp.dmem ((dmemAddr + i) % Config.localSize))) s.rdram }

end Sys2Proof.Machine
end

