-- ==== Sys2Proof/Machine/Rdp.lean ====
section
/-! DEFINITION. The named operations over the RDP (spec 45_rdp): the queue, the render state, painting a rectangle, and
the frame write-back. -/

namespace Sys2Proof.Machine

/-- `enqueue(word)`: at the back; it never fails (45 R400). -/
def State.enqueue (s : State) (w : Word) : State :=
  { s with rdp := { s.rdp with queue := s.rdp.queue ++ [w] } }

/-- Enqueue a list of words in order. -/
def State.enqueueAll (s : State) (ws : List Word) : State :=
  { s with rdp := { s.rdp with queue := s.rdp.queue ++ ws } }

/-- Replace the queue: the drain takes its words off with this (45 R401). -/
def State.setQueue (s : State) (q : List Word) : State :=
  { s with rdp := { s.rdp with queue := q } }

/-- Write the render state (45 R405). -/
def State.setRender (s : State) (r : RenderState) : State :=
  { s with rdp := { s.rdp with render := r } }

/-- Write the framebuffer. -/
def State.setFb (s : State) (fb : Pixels) : State :=
  { s with rdp := { s.rdp with fb := fb } }

/-- `fb[y][x]` (45 R430); 0 outside the buffer, where no rule reads. -/
def State.pixel (s : State) (x y : Nat) : Word :=
  if x < s.params.fbWidth ∧ y < s.params.fbHeight then Store.get s.rdp.fb (y * s.params.fbWidth + x) else 0#32

/-- A 5-bit channel to 8 bits: `(c << 3) | (c >> 2)` (45 R420). -/
def expandChannel (c : BitVec 5) : Byte :=
  (c.setWidth 8 <<< 3) ||| (c.setWidth 8 >>> 2)

/-- `fill_rgba()`: 5/5/5/1 when the colour image is 16-bit, else the fill colour unchanged (45 R420). -/
def fillRgba (r : RenderState) : Word :=
  if r.colorImage.size = 2#2 then
    (expandChannel (r.fillColor.extractLsb' 11 5)).setWidth 32 <<< 24
      ||| (expandChannel (r.fillColor.extractLsb' 6 5)).setWidth 32 <<< 16
      ||| (expandChannel (r.fillColor.extractLsb' 1 5)).setWidth 32 <<< 8
      ||| (if r.fillColor.getLsbD 0 then 0xFF#32 else 0x00#32)
  else r.fillColor

/-- The rectangle a drawing command covers, in pixels, half-open and clipped to the buffer (45 R421). -/
structure PixelRect where
  x0 : Nat
  y0 : Nat
  x1 : Nat
  y1 : Nat
deriving DecidableEq, Repr

/-- `x0`, `y0`, `x1`, `y1` from the quarter-pixel fields (45 R406, R421). -/
def pixelRect (p : Params) (xl yl xh yh : BitVec 12) : PixelRect where
  x0 := xh.toNat / 4
  y0 := yh.toNat / 4
  x1 := min (xl.toNat / 4) p.fbWidth
  y1 := min (yl.toNat / 4) p.fbHeight

/-- Paint one row of a rectangle in a buffer `width` pixels wide. -/
def paintRow (width : Nat) (fb : Pixels) (x0 x1 y : Nat) (color : Nat → Nat → Word) : Pixels :=
  (List.range (x1 - x0)).foldl (fun acc i => Store.put acc (y * width + (x0 + i)) (color (x0 + i) y)) fb

/-- For every `y` in `y0 <= y < y1` and `x` in `x0 <= x < x1`: `fb[y][x] <- color x y` (45 R421, R422). -/
def paintRect (width : Nat) (fb : Pixels) (r : PixelRect) (color : Nat → Nat → Word) : Pixels :=
  (List.range (r.y1 - r.y0)).foldl (fun acc j => paintRow width acc r.x0 r.x1 (r.y0 + j) color) fb

/-- The nonzero bytes of one pixel at its place in RDRAM, most significant first, those outside RDRAM dropped
(45 R424). -/
def pixelCells (rdramSize base : Nat) (cell : Nat × Word) : Memory :=
  (Store.ofBytes (base + cell.1 * 4)
    [byteOf 4 cell.2 0, byteOf 4 cell.2 1, byteOf 4 cell.2 2, byteOf 4 cell.2 3]).filter
      fun c => decide (c.1 < rdramSize)

/-- RDRAM after SYNC_FULL's byte loop (45 R424): the bytes below the frame, the bytes of the frame, the bytes above it.
The loop is computed on the listed pixels alone (log 19). -/
def frameWriteback (p : Params) (rdram : Memory) (fb : Pixels) (base : Nat) : Memory :=
  (rdram.filter fun c => decide (c.1 < base))
    ++ ((fb.filter fun c => decide (c.1 < p.fbPixels)).flatMap (pixelCells p.rdramSize base))
    ++ (rdram.filter fun c => decide (base + p.frameBytes ≤ c.1))

end Sys2Proof.Machine
end

