-- ==== Sys2Proof/Machine/Ops.lean ====
section
/-! DEFINITION. The named operations over the CPU and the bus: registers, the end of a step (40_cpu_step_and_alu),
exception entry, return and the interrupt poll (60_exceptions, 43_cpu_system), and the MemoryBus (20_memory). -/

namespace Sys2Proof.Machine

/-! ### CPU registers -/

/-- `x[i]` (10_state R20). -/
def State.getX (s : State) (r : Reg) : DWord := regRead s.cpu.x r

/-- `x[i] <- v` (10_state R20). -/
def State.setX (s : State) (r : Reg) (v : DWord) : State :=
  { s with cpu := { s.cpu with x := regWrite s.cpu.x r v } }

/-- `x[i][31:0]`, the operand of a word operation (40 R187). -/
def State.getW (s : State) (r : Reg) : Word := (s.getX r).setWidth 32

/-- `x[i] <- sext_32(v)`, the result of a word operation (40 R187). -/
def State.setW (s : State) (r : Reg) (v : Word) : State := s.setX r (v.signExtend 64)

/-- `hi <- v` (10_state R23). -/
def State.setHi (s : State) (v : DWord) : State := { s with cpu := { s.cpu with hi := v } }

/-- `lo <- v` (10_state R23). -/
def State.setLo (s : State) (v : DWord) : State := { s with cpu := { s.cpu with lo := v } }

/-- `ll_flag <- v` (10_state R24). -/
def State.setLl (s : State) (v : Bool) : State := { s with cpu := { s.cpu with llFlag := v } }

/-- `cop0[i]`, as stored (10_state R31). -/
def State.getC0 (s : State) (r : Reg) : Word := s.cpu.cop0[r.toNat]'r.isLt

/-- `cop0[i] <- v` by the hardware (10_state R31). -/
def State.setC0 (s : State) (r : Reg) (v : Word) : State :=
  { s with cpu := { s.cpu with cop0 := s.cpu.cop0.set r.toNat v r.isLt } }

/-- Status, slot 12 (10_state R32). -/
def State.status (s : State) : Word := s.getC0 12#5

/-- Cause as stored, slot 13 (10_state R34). -/
def State.cause (s : State) : Word := s.getC0 13#5

/-- EPC, slot 14 (10_state R36). -/
def State.epc (s : State) : Word := s.getC0 14#5

/-- What MFC0 reads of a slot: Cause through its read view (43 R300). -/
def State.readC0 (s : State) (r : Reg) : Word :=
  if r = 13#5 then causeView (s.getC0 r) s.cpu.irq else s.getC0 r

/-- What MTC0 does to a slot: PRId and Config discard the write (43 R301). -/
def State.writeC0 (s : State) (r : Reg) (v : Word) : State :=
  s.setC0 r (if r = 15#5 ∨ r = 16#5 then s.getC0 r else v)

/-! ### The end of a CPU step (40 R183, R184) -/

/-- `branch(T)` writes the pending target; `taken` is the argument of the advance (R183). -/
def State.branch (s : State) (t : Word) : State :=
  { s with cpu := { s.cpu with pendingTarget := t } }

/-- `advance(in_slot, taken)` (R184). -/
def State.advance (s : State) (taken : Bool) : State :=
  { s with cpu := { s.cpu with
      pc := if s.cpu.delayFlag then s.cpu.pendingTarget else s.cpu.pc + 4#32
      delayFlag := !s.cpu.delayFlag && taken } }

/-- An instruction that is no taken branch ends. -/
def State.retire (s : State) : State := s.advance false

/-- A branch to `t` ends: taken if the condition holds (42 R270). -/
def State.retireIf (s : State) (taken : Bool) (t : Word) : State :=
  if taken then (s.branch t).advance true else s.advance false

/-! ### Exceptions (60 R460 to R463), return (43 R304), poll (60 R471) -/

/-- Where an exception goes: VEC_BOOT or VEC_NORMAL by Status.BEV (60 R461). -/
def exceptionVector (p : Params) (status : Word) : Word :=
  if statusBev status then p.vecBoot else p.vecNormal

/-- What EPC becomes: the faulting instruction, or the branch before it (60 R460). -/
def State.faultPc (s : State) : Word :=
  if s.cpu.delayFlag then s.cpu.pc - 4#32 else s.cpu.pc

/-- `exception_entry(code)`, for every cause (60 R460). -/
def State.enterException (s : State) (c : ExcCode) : State :=
  let s1 := s.setC0 14#5 s.faultPc
  let s2 := s1.setC0 13#5 (causeEntry s.cause s.cpu.delayFlag c)
  let s3 := s2.setC0 12#5 (statusSetEl s.status)
  { s3 with cpu := { s3.cpu with delayFlag := false, pc := exceptionVector s.params s.status } }

/-- ERET's effect: pc from EPC, EL cleared, the delay flag cleared (43 R304). -/
def State.returnFromException (s : State) : State :=
  let s1 := s.setC0 12#5 (statusClearEl s.status)
  { s1 with cpu := { s1.cpu with pc := s.epc &&& 0xFFFFFFFC#32, delayFlag := false } }

/-- `interrupt_poll()` (60 R471). -/
def State.poll (s : State) : State :=
  if interruptDue s.cpu.irq s.status then s.enterException .int else s

/-! ### The bus decoder (20_memory R81, R82) -/

/-- `pa = addr & 0x1FFFFFFF` (R81). -/
def physAddr (a : Word) : Nat := (a &&& 0x1FFFFFFF#32).toNat

/-- The regions of the address map, with the offset of the address in the region (R82). -/
inductive Region where
  | rdram (off : Nat)
  | dmem (off : Nat)
  | imem (off : Nat)
  /-- A register window; with the register whose address this is, if it is one's. -/
  | registers (reg : Option BusReg)
  | save (off : Nat)
  | rom (off : Nat)
  | unmapped
deriving DecidableEq, Repr

/-- The size of the save buffer of the cartridge, 0 without one (R82, R125; log 4). -/
def State.saveSize (s : State) : Nat :=
  match s.cart with
  | some c => s.params.saveSize c.saveType
  | none => 0

/-- The address map, first match wins (R82; every number PRESUMED by the spec, log 26). The three register windows of R82
are the registers of the default REGWIN (R100). Without a cartridge the ROM window is unmapped (log 4). -/
def State.region (s : State) (pa : Nat) : Region :=
  if pa < s.params.rdramSize then .rdram pa
  else if 0x04000000 ≤ pa ∧ pa ≤ 0x04000FFF then .dmem (pa - 0x04000000)
  else if 0x04001000 ≤ pa ∧ pa ≤ 0x04001FFF then .imem (pa - 0x04001000)
  else if s.params.inRegwin pa then .registers (s.params.busRegAt pa)
  else if 0x08000000 ≤ pa ∧ pa < 0x08000000 + s.saveSize then .save (pa - 0x08000000)
  else if 0x10000000 ≤ pa ∧ pa ≤ 0x1FBFFFFF ∧ s.cart.isSome then .rom (pa - 0x10000000)
  else .unmapped

/-! ### The register windows (20_memory R100, R102) -/

/-- Bit 0 of SP_STATUS: not running. Bit 1: broke (R100). -/
def spStatusValue (r : RunState) : Word :=
  match r with
  | .running => 0#32
  | .halted => 1#32
  | .broke => 3#32

/-- The read value of a register (R100). -/
def State.readBusReg (s : State) (r : BusReg) : Word :=
  match r with
  | .spMemAddr => s.rsp.memAddr.setWidth 32
  | .spDramAddr => s.rsp.dramAddr.setWidth 32
  | .spRdLen => 0#32
  | .spWrLen => 0#32
  | .spStatus => spStatusValue s.rsp.run
  | .spPc => s.rsp.pc.setWidth 32
  | .dpcStart => s.rdp.dpcStart.setWidth 32
  | .dpcEnd => s.rdp.dpcStart.setWidth 32

/-- The run state after a write of `v` to SP_STATUS: bit 2 clears broke, then bit 0 alone kicks, bit 1 alone halts
(R100). -/
def spStatusWrite (r : RunState) (v : Word) : RunState :=
  let cleared := if v.getLsbD 2 = true ∧ r = .broke then .halted else r
  if v.getLsbD 0 = true ∧ v.getLsbD 1 = false then .running
  else if v.getLsbD 1 = true ∧ v.getLsbD 0 = false then .halted
  else cleared

/-- A word of RDRAM, byte by byte (R83, R100). -/
def State.rdramWord (s : State) (a : Nat) : Word :=
  joinBytes (fun i => s.rdramReadByte (a + i)) 4

/-- The words that a write to DPC_END enqueues: from `start` in steps of 4 while below `e` (R100). -/
def State.commandWords (s : State) (start e : Nat) : List Word :=
  (List.range ((e - start + 3) / 4)).map fun k => s.rdramWord (start + 4 * k)

/-- The value a write gives DPC_START, and `e` of DPC_END: `v[23:0] & 0xFFFFFC` (R100). -/
def dpcPointer (v : Word) : BitVec 24 := v.setWidth 24 &&& 0xFFFFFC#24

/-- The transfer length a write to SP_RD_LEN or SP_WR_LEN gives: `v[11:0] + 1` (R100). -/
def dmaLength (v : Word) : Nat := (v.setWidth 12).toNat + 1

/-- The write action of a register (R100). -/
def State.writeBusReg (s : State) (r : BusReg) (v : Word) : State :=
  match r with
  | .spMemAddr => { s with rsp := { s.rsp with memAddr := v.setWidth 12 } }
  | .spDramAddr => { s with rsp := { s.rsp with dramAddr := v.setWidth 24 } }
  | .spRdLen => s.dmaToDmem s.rsp.dramAddr.toNat s.rsp.memAddr.toNat (dmaLength v)
  | .spWrLen => s.dmaFromDmem s.rsp.dramAddr.toNat s.rsp.memAddr.toNat (dmaLength v)
  | .spStatus => s.setRun (spStatusWrite s.rsp.run v)
  | .spPc => { s with rsp := { s.rsp with pc := v.setWidth 12 &&& 0xFFC#12, delayFlag := false } }
  | .dpcStart => { s with rdp := { s.rdp with dpcStart := dpcPointer v } }
  | .dpcEnd =>
    let s1 := s.enqueueAll (s.commandWords s.rdp.dpcStart.toNat (dpcPointer v).toNat)
    { s1 with rdp := { s1.rdp with dpcStart := dpcPointer v } }

/-! ### The save buffer through the state (20_memory R120 to R122, R125) -/

/-- `save_read`; 0 without a cartridge (log 4). -/
def State.saveRead (s : State) (off : Nat) (n : Access) : Word :=
  match s.cart with
  | some c => c.saveRead s.saveSize off n
  | none => 0#32

/-- `save_write`; nothing without a cartridge (log 4). -/
def State.saveWrite (s : State) (off : Nat) (n : Access) (v : Word) : State :=
  { s with cart := s.cart.map fun c => c.saveWrite s.saveSize off n v }

/-- A ROM read through the bank register (R114); 0 without a cartridge (log 4). -/
def State.romRead (s : State) (off : Nat) (n : Access) : Word :=
  match s.cart with
  | some c => c.romRead s.bank off n
  | none => 0#32

/-! ### MemRead and MemWrite (20_memory R84 to R86) -/

/-- `MemRead(addr, n)`, zero-extended to a word. It has no side effect. -/
def State.memRead (s : State) (addr : Word) (n : Access) : Word :=
  match s.region (physAddr addr) with
  | .rdram off => joinBytes (fun i => s.rdramReadByte (off + i)) n.size
  | .dmem off => joinBytes (fun i => Store.peek s.rsp.dmem Config.localSize (off + i)) n.size
  | .imem off => joinBytes (fun i => Store.peek s.rsp.imem Config.localSize (off + i)) n.size
  | .registers reg =>
    match n, reg with
    | .word, some r => s.readBusReg r
    | _, _ => 0#32
  | .save off => s.saveRead off n
  | .rom off => s.romRead off n
  | .unmapped => 0#32

/-- `MemWrite(addr, n, v)`: the low `8n` bits of `v`. -/
def State.memWrite (s : State) (addr : Word) (n : Access) (v : Word) : State :=
  match s.region (physAddr addr) with
  | .rdram off => { s with rdram := writeBytes s.rdram s.params.rdramSize (fun i => off + i) n.size v }
  | .dmem off =>
    { s with rsp := { s.rsp with dmem := writeBytes s.rsp.dmem Config.localSize (fun i => off + i) n.size v } }
  | .imem off =>
    { s with rsp := { s.rsp with imem := writeBytes s.rsp.imem Config.localSize (fun i => off + i) n.size v } }
  | .registers reg =>
    match n, reg with
    | .word, some r => s.writeBusReg r v
    | _, _ => s
  | .save off => s.saveWrite off n v
  | .rom _ => s
  | .unmapped => s

/-- The fetch: `MemRead(pc, 4)` (20_memory R92, 40 R181). -/
def State.fetch (s : State) : Word := s.memRead s.cpu.pc .word

end Sys2Proof.Machine
end

