-- ==== Sys2Proof/Machine/Operands.lean ====
section
/-! DEFINITION. Every operand form: immediates (40 R187, R235), effective addresses (41 R240, 44 section 3), branch and
jump targets and links (42 R271, R273; 44 R329), shift counts (40 R203), and lane selection (44 R376). -/

namespace Sys2Proof.Machine

/-! ### CPU -/

/-- `sext_16(imm)[31:0]` (40 R194). -/
def immWord (imm : BitVec 16) : Word := imm.signExtend 32

/-- `sext_16(imm)` to 64 bits (40 R212). -/
def immSigned (imm : BitVec 16) : DWord := imm.signExtend 64

/-- `zext_16(imm)` to 64 bits (40 R206). -/
def immZero (imm : BitVec 16) : DWord := imm.setWidth 64

/-- `imm ++ 0x0000` (40 R209). -/
def immUpper (imm : BitVec 16) : Word := imm.setWidth 32 <<< 16

/-- `ea <- (x[rs][31:0] + sext_16(imm)[31:0])[31:0]` (41 R240). -/
def State.ea (s : State) (base : Reg) (off : BitVec 16) : Word := s.getW base + immWord off

/-- `x[rs][4:0]` (40 R203). -/
def State.shiftCount (s : State) (rs : Reg) : Nat := ((s.getX rs).setWidth 5).toNat

/-- `(pc + 4 + (sext_16(imm) << 2))[31:0]` (42 R271). -/
def branchTarget (pc : Word) (off : BitVec 16) : Word := pc + 4#32 + (immWord off <<< 2)

/-- `(pc + 4)[31:28] ++ target ++ 0b00` (42 R271). -/
def jumpTarget (pc : Word) (target : BitVec 26) : Word :=
  ((pc + 4#32) &&& 0xF0000000#32) ||| (target.setWidth 32 <<< 2)

/-- `x[rs][31:0] & 0xFFFFFFFC` (42 R271). -/
def State.registerTarget (s : State) (rs : Reg) : Word := s.getW rs &&& 0xFFFFFFFC#32

/-- `sext_32((pc + 8)[31:0])` (42 R273). -/
def linkValue (pc : Word) : DWord := (pc + 8#32).signExtend 64

/-! ### RSP -/

/-- `zext_16(imm)` to 32 bits (44 R350). -/
def immZeroWord (imm : BitVec 16) : Word := imm.setWidth 32

/-- `(r[rs] + sext_16(imm))[11:0]` (44 section 3). -/
def State.rspEa (s : State) (base : Reg) (off : BitVec 16) : Nat := ((s.getR base + immWord off).setWidth 12).toNat

/-- `(r[base] + sext_7(offset) * 16)[11:0]` (44 R385, R386). -/
def State.quadEa (s : State) (base : Reg) (off : BitVec 7) : Nat :=
  ((s.getR base + off.signExtend 32 * 16#32).setWidth 12).toNat

/-- `r[rs][4:0]` (44 R343). -/
def State.rspShiftCount (s : State) (rs : Reg) : Nat := ((s.getR rs).setWidth 5).toNat

/-- `(rsp.pc + 4 + (sext_16(imm) << 2)) & 0xFFC` (44 R329). -/
def rspBranchTarget (pc : Local) (off : BitVec 16) : Local :=
  (pc + 4#12 + (off.setWidth 12 <<< 2)) &&& 0xFFC#12

/-- `(target << 2) & 0xFFC` (44 R329). -/
def rspJumpTarget (target : BitVec 26) : Local := (target.setWidth 12 <<< 2) &&& 0xFFC#12

/-- `r[rs] & 0xFFC` (44 R329). -/
def State.rspRegisterTarget (s : State) (rs : Reg) : Local := (s.getR rs).setWidth 12 &&& 0xFFC#12

/-- `zext((rsp.pc + 8) & 0xFFC)` (44 R329). -/
def rspLinkValue (pc : Local) : Word := ((pc + 8#12) &&& 0xFFC#12).setWidth 32

/-- Apply a lane operation to all eight lanes at once: every operand lane is read before any is written (44 R376). -/
def mapLanes (f : Lane → Lane → Lane) (a b : Vector Lane 8) : Vector Lane 8 :=
  #v[f a[0] b[0], f a[1] b[1], f a[2] b[2], f a[3] b[3], f a[4] b[4], f a[5] b[5], f a[6] b[6], f a[7] b[7]]

/-- The second operand's lanes: with `e >= 8` lane `e - 8` broadcast, else lane for lane (44 R376). -/
def selectLanes (v : Vector Lane 8) (e : BitVec 4) : Vector Lane 8 :=
  if h : 8 ≤ e.toNat then
    Vector.replicate 8 (v[e.toNat - 8]'(by have := e.isLt; omega))
  else v

/-- `v[vd][i] <- f a_i b_i` for every lane (44 R376). -/
def State.laneOp (s : State) (f : Lane → Lane → Lane) (vd vs vt : Reg) (e : BitVec 4) : State :=
  s.setV vd (mapLanes f (s.getV vs) (selectLanes (s.getV vt) e))

end Sys2Proof.Machine
end

