-- ==== Sys2Proof/Machine/Arith.lean ====
section
/-! DEFINITION. The CPU's add, subtract, logical, shift and compare instructions (40_cpu_step_and_alu sections 2 to 5). A
word operation reads bits 31:0 and writes the sign-extended result; the others work on 64 bits (R187). -/

namespace Sys2Proof.Machine

/-- ADD: traps on signed 32-bit overflow, before any write (R190). -/
def execAdd (rd rs rt : Reg) (s : State) : Result :=
  if addOverflow (s.getW rs) (s.getW rt) then .next (s.enterException .ov)
  else .next (s.setW rd (s.getW rs + s.getW rt)).retire

/-- ADDU (R191). -/
def execAddu (rd rs rt : Reg) (s : State) : Result :=
  .next (s.setW rd (s.getW rs + s.getW rt)).retire

/-- SUB: traps on signed 32-bit overflow, before any write (R192). -/
def execSub (rd rs rt : Reg) (s : State) : Result :=
  if subOverflow (s.getW rs) (s.getW rt) then .next (s.enterException .ov)
  else .next (s.setW rd (s.getW rs - s.getW rt)).retire

/-- SUBU (R193). -/
def execSubu (rd rs rt : Reg) (s : State) : Result :=
  .next (s.setW rd (s.getW rs - s.getW rt)).retire

/-- ADDI: traps on signed 32-bit overflow, before any write (R194). -/
def execAddi (rt rs : Reg) (imm : BitVec 16) (s : State) : Result :=
  if addOverflow (s.getW rs) (immWord imm) then .next (s.enterException .ov)
  else .next (s.setW rt (s.getW rs + immWord imm)).retire

/-- ADDIU: the immediate is sign-extended (R195). -/
def execAddiu (rt rs : Reg) (imm : BitVec 16) (s : State) : Result :=
  .next (s.setW rt (s.getW rs + immWord imm)).retire

/-- AND (R196). -/
def execAnd (rd rs rt : Reg) (s : State) : Result :=
  .next (s.setX rd (s.getX rs &&& s.getX rt)).retire

/-- OR (R197). -/
def execOr (rd rs rt : Reg) (s : State) : Result :=
  .next (s.setX rd (s.getX rs ||| s.getX rt)).retire

/-- XOR (R198). -/
def execXor (rd rs rt : Reg) (s : State) : Result :=
  .next (s.setX rd (s.getX rs ^^^ s.getX rt)).retire

/-- NOR (R199). -/
def execNor (rd rs rt : Reg) (s : State) : Result :=
  .next (s.setX rd (~~~(s.getX rs ||| s.getX rt))).retire

/-- ANDI: the immediate is zero-extended (R206). -/
def execAndi (rt rs : Reg) (imm : BitVec 16) (s : State) : Result :=
  .next (s.setX rt (s.getX rs &&& immZero imm)).retire

/-- ORI: the immediate is zero-extended (R207). -/
def execOri (rt rs : Reg) (imm : BitVec 16) (s : State) : Result :=
  .next (s.setX rt (s.getX rs ||| immZero imm)).retire

/-- XORI: the immediate is zero-extended (R208). -/
def execXori (rt rs : Reg) (imm : BitVec 16) (s : State) : Result :=
  .next (s.setX rt (s.getX rs ^^^ immZero imm)).retire

/-- LUI (R209). -/
def execLui (rt : Reg) (imm : BitVec 16) (s : State) : Result :=
  .next (s.setW rt (immUpper imm)).retire

/-- SLL; the word 0x00000000 is the no-op (R200). -/
def execSll (rd rt : Reg) (shamt : BitVec 5) (s : State) : Result :=
  .next (s.setW rd (s.getW rt <<< shamt.toNat)).retire

/-- SRL: zeros shifted in (R201). -/
def execSrl (rd rt : Reg) (shamt : BitVec 5) (s : State) : Result :=
  .next (s.setW rd (s.getW rt >>> shamt.toNat)).retire

/-- SRA: copies of bit 31 shifted in (R202). -/
def execSra (rd rt : Reg) (shamt : BitVec 5) (s : State) : Result :=
  .next (s.setW rd ((s.getW rt).sshiftRight shamt.toNat)).retire

/-- SLLV: the count is `x[rs][4:0]` (R203). -/
def execSllv (rd rt rs : Reg) (s : State) : Result :=
  .next (s.setW rd (s.getW rt <<< s.shiftCount rs)).retire

/-- SRLV (R204). -/
def execSrlv (rd rt rs : Reg) (s : State) : Result :=
  .next (s.setW rd (s.getW rt >>> s.shiftCount rs)).retire

/-- SRAV (R205). -/
def execSrav (rd rt rs : Reg) (s : State) : Result :=
  .next (s.setW rd ((s.getW rt).sshiftRight (s.shiftCount rs))).retire

/-- SLT: a signed comparison of 64 bits (R210). -/
def execSlt (rd rs rt : Reg) (s : State) : Result :=
  .next (s.setX rd (boolWord 64 ((s.getX rs).slt (s.getX rt)))).retire

/-- SLTU: an unsigned comparison of 64 bits (R211). -/
def execSltu (rd rs rt : Reg) (s : State) : Result :=
  .next (s.setX rd (boolWord 64 ((s.getX rs).ult (s.getX rt)))).retire

/-- SLTI (R212). -/
def execSlti (rt rs : Reg) (imm : BitVec 16) (s : State) : Result :=
  .next (s.setX rt (boolWord 64 ((s.getX rs).slt (immSigned imm)))).retire

/-- SLTIU: the immediate is sign-extended, then compared as unsigned (R213). -/
def execSltiu (rt rs : Reg) (imm : BitVec 16) (s : State) : Result :=
  .next (s.setX rt (boolWord 64 ((s.getX rs).ult (immSigned imm)))).retire

end Sys2Proof.Machine
end

