-- ==== Sys2Proof/Machine/Control.lean ====
section
/-! DEFINITION. CPU branches and jumps (42_cpu_control). A taken one is deferred by one instruction (R270); a taken one in
a delay slot overwrites the pending target (R272). Conditions compare 64 bits (R271). -/

namespace Sys2Proof.Machine

/-- BEQ (R274). -/
def execBeq (rs rt : Reg) (off : BitVec 16) (s : State) : Result :=
  .next (s.retireIf (s.getX rs == s.getX rt) (branchTarget s.cpu.pc off))

/-- BNE (R275). -/
def execBne (rs rt : Reg) (off : BitVec 16) (s : State) : Result :=
  .next (s.retireIf (s.getX rs != s.getX rt) (branchTarget s.cpu.pc off))

/-- BLEZ (R276). -/
def execBlez (rs : Reg) (off : BitVec 16) (s : State) : Result :=
  .next (s.retireIf (isNonPositive (s.getX rs)) (branchTarget s.cpu.pc off))

/-- BGTZ (R277). -/
def execBgtz (rs : Reg) (off : BitVec 16) (s : State) : Result :=
  .next (s.retireIf (isPositive (s.getX rs)) (branchTarget s.cpu.pc off))

/-- BLTZ (R280). -/
def execBltz (rs : Reg) (off : BitVec 16) (s : State) : Result :=
  .next (s.retireIf (isNegative (s.getX rs)) (branchTarget s.cpu.pc off))

/-- BGEZ (R281). -/
def execBgez (rs : Reg) (off : BitVec 16) (s : State) : Result :=
  .next (s.retireIf (isNonNegative (s.getX rs)) (branchTarget s.cpu.pc off))

/-- BLTZAL: links whether or not taken; the condition is read before the link is written (R286). -/
def execBltzal (rs : Reg) (off : BitVec 16) (s : State) : Result :=
  .next ((s.setX 31#5 (linkValue s.cpu.pc)).retireIf (isNegative (s.getX rs)) (branchTarget s.cpu.pc off))

/-- BGEZAL: links whether or not taken; the condition is read before the link is written (R287). -/
def execBgezal (rs : Reg) (off : BitVec 16) (s : State) : Result :=
  .next ((s.setX 31#5 (linkValue s.cpu.pc)).retireIf (isNonNegative (s.getX rs)) (branchTarget s.cpu.pc off))

/-- J (R278). -/
def execJ (target : BitVec 26) (s : State) : Result :=
  .next (s.retireIf true (jumpTarget s.cpu.pc target))

/-- JAL (R279). -/
def execJal (target : BitVec 26) (s : State) : Result :=
  .next ((s.setX 31#5 (linkValue s.cpu.pc)).retireIf true (jumpTarget s.cpu.pc target))

/-- JR (R282). -/
def execJr (rs : Reg) (s : State) : Result :=
  .next (s.retireIf true (s.registerTarget rs))

/-- JALR: the target is read before the link is written (R283). -/
def execJalr (rd rs : Reg) (s : State) : Result :=
  .next ((s.setX rd (linkValue s.cpu.pc)).retireIf true (s.registerTarget rs))

end Sys2Proof.Machine
end

