-- ==== Sys2Proof/Machine/LoadStore.lean ====
section
/-! DEFINITION. CPU loads, stores, LL and SC (41_cpu_loadstore). None raises: no alignment requirement, unmapped reads
zero and ignores writes (R241). -/

namespace Sys2Proof.Machine

/-- LB (R244). -/
def execLb (rt base : Reg) (off : BitVec 16) (s : State) : Result :=
  .next (s.setX rt (((s.memRead (s.ea base off) .byte).setWidth 8).signExtend 64)).retire

/-- LBU (R245). -/
def execLbu (rt base : Reg) (off : BitVec 16) (s : State) : Result :=
  .next (s.setX rt (((s.memRead (s.ea base off) .byte).setWidth 8).setWidth 64)).retire

/-- LH (R246). -/
def execLh (rt base : Reg) (off : BitVec 16) (s : State) : Result :=
  .next (s.setX rt (((s.memRead (s.ea base off) .half).setWidth 16).signExtend 64)).retire

/-- LHU (R247). -/
def execLhu (rt base : Reg) (off : BitVec 16) (s : State) : Result :=
  .next (s.setX rt (((s.memRead (s.ea base off) .half).setWidth 16).setWidth 64)).retire

/-- LW (R248). -/
def execLw (rt base : Reg) (off : BitVec 16) (s : State) : Result :=
  .next (s.setX rt ((s.memRead (s.ea base off) .word).signExtend 64)).retire

/-- LWU (R249). -/
def execLwu (rt base : Reg) (off : BitVec 16) (s : State) : Result :=
  .next (s.setX rt ((s.memRead (s.ea base off) .word).setWidth 64)).retire

/-- SB (R250). -/
def execSb (rt base : Reg) (off : BitVec 16) (s : State) : Result :=
  .next (s.memWrite (s.ea base off) .byte (s.getW rt)).retire

/-- SH (R251). -/
def execSh (rt base : Reg) (off : BitVec 16) (s : State) : Result :=
  .next (s.memWrite (s.ea base off) .half (s.getW rt)).retire

/-- SW: at a register address it performs the register's write action (R252). -/
def execSw (rt base : Reg) (off : BitVec 16) (s : State) : Result :=
  .next (s.memWrite (s.ea base off) .word (s.getW rt)).retire

/-- LL: no address is recorded (R253). -/
def execLl (rt base : Reg) (off : BitVec 16) (s : State) : Result :=
  .next ((s.setX rt ((s.memRead (s.ea base off) .word).signExtend 64)).setLl true).retire

/-- SC: writes and answers 1 if the flag is set, else answers 0; clears the flag (R254). -/
def execSc (rt base : Reg) (off : BitVec 16) (s : State) : Result :=
  if s.cpu.llFlag then
    .next ((((s.memWrite (s.ea base off) .word (s.getW rt)).setX rt 1#64).setLl false).retire)
  else .next (((s.setX rt 0#64).setLl false).retire)

end Sys2Proof.Machine
end

