-- ==== Sys2Proof/Machine/MulDiv.lean ====
section
/-! DEFINITION. HI, LO, multiply and divide (40_cpu_step_and_alu section 6). Products and quotients are exact integers,
narrowed once at the end. -/

namespace Sys2Proof.Machine

/-- `lo <- sext_32(P[31:0]); hi <- sext_32(P[63:32])` (R224, R225). -/
def State.setProduct (s : State) (p : DWord) : State :=
  (s.setLo ((p.extractLsb' 0 32).signExtend 64)).setHi ((p.extractLsb' 32 32).signExtend 64)

/-- LO after DIV: the quotient rounded toward zero (R226); at a corner DIV_CORNER (R230, R231). -/
def divLo (c : DivCorner) (a b : Word) : DWord :=
  if b = 0#32 then c.divZeroLo.eval a
  else if a = 0x80000000#32 ∧ b = 0xFFFFFFFF#32 then c.overflowLo.eval a
  else (BitVec.ofInt 32 (a.toInt.tdiv b.toInt)).signExtend 64

/-- HI after DIV: `r <- a - q * b` (R226); at a corner DIV_CORNER (R230, R231). -/
def divHi (c : DivCorner) (a b : Word) : DWord :=
  if b = 0#32 then c.divZeroHi.eval a
  else if a = 0x80000000#32 ∧ b = 0xFFFFFFFF#32 then c.overflowHi.eval a
  else (BitVec.ofInt 32 (a.toInt - a.toInt.tdiv b.toInt * b.toInt)).signExtend 64

/-- LO after DIVU: the floor of the quotient (R227); at the corner DIV_CORNER (R230). -/
def divuLo (c : DivCorner) (a b : Word) : DWord :=
  if b = 0#32 then c.divuZeroLo.eval a
  else (BitVec.ofNat 32 (a.toNat / b.toNat)).signExtend 64

/-- HI after DIVU: `r <- a - q * b` (R227); at the corner DIV_CORNER (R230). -/
def divuHi (c : DivCorner) (a b : Word) : DWord :=
  if b = 0#32 then c.divuZeroHi.eval a
  else (BitVec.ofNat 32 (a.toNat - a.toNat / b.toNat * b.toNat)).signExtend 64

/-- MFHI (R220). -/
def execMfhi (rd : Reg) (s : State) : Result := .next (s.setX rd s.cpu.hi).retire

/-- MTHI (R221). -/
def execMthi (rs : Reg) (s : State) : Result := .next (s.setHi (s.getX rs)).retire

/-- MFLO (R222). -/
def execMflo (rd : Reg) (s : State) : Result := .next (s.setX rd s.cpu.lo).retire

/-- MTLO (R223). -/
def execMtlo (rs : Reg) (s : State) : Result := .next (s.setLo (s.getX rs)).retire

/-- MULT: the exact signed product (R224). -/
def execMult (rs rt : Reg) (s : State) : Result :=
  .next (s.setProduct (BitVec.ofInt 64 ((s.getW rs).toInt * (s.getW rt).toInt))).retire

/-- MULTU: the exact unsigned product (R225). -/
def execMultu (rs rt : Reg) (s : State) : Result :=
  .next (s.setProduct (BitVec.ofNat 64 ((s.getW rs).toNat * (s.getW rt).toNat))).retire

/-- DIV: no exception, not even for a zero divisor (R226). -/
def execDiv (rs rt : Reg) (s : State) : Result :=
  .next ((s.setLo (divLo s.params.divCorner (s.getW rs) (s.getW rt))).setHi
    (divHi s.params.divCorner (s.getW rs) (s.getW rt))).retire

/-- DIVU: no exception, not even for a zero divisor (R227). -/
def execDivu (rs rt : Reg) (s : State) : Result :=
  .next ((s.setLo (divuLo s.params.divCorner (s.getW rs) (s.getW rt))).setHi
    (divuHi s.params.divCorner (s.getW rs) (s.getW rt))).retire

end Sys2Proof.Machine
end

