-- ==== Sys2Proof/Machine/RdpDraw.lean ====
section
/-! DEFINITION. The RDP's drawing commands (45_rdp section 3). -/

namespace Sys2Proof.Machine

/-- FILL_RECTANGLE: the fill colour on the half-open rectangle, clipped to the buffer (R421). -/
def execFillRectangle (xl yl xh yh : BitVec 12) (s : State) : Result :=
  .next (s.setFb (paintRect s.params.fbWidth s.rdp.fb (pixelRect s.params xl yl xh yh) (fun _ _ => fillRgba s.rdp.render)))

/-- `s <- S * 32 + (x - x0) * DsDx`, and the same for `t`: 10 fraction bits (R422). -/
def textureCoord (start delta : BitVec 16) (steps : Nat) : Int :=
  start.toInt * 32 + (steps : Int) * delta.toInt

/-- TEXTURE_RECTANGLE: TEX_SAMPLE of its coordinates on the same region (R422, R423; log 10). -/
def execTextureRectangle (xl yl : BitVec 12) (tile : BitVec 3) (xh yh : BitVec 12) (sCoord tCoord dsdx dtdy : BitVec 16)
    (s : State) : Result :=
  let r := pixelRect s.params xl yl xh yh
  .next (s.setFb (paintRect s.params.fbWidth s.rdp.fb r (fun x y =>
    Config.texSample s.rdp.render tile (textureCoord sCoord dsdx (x - r.x0)) (textureCoord tCoord dtdy (y - r.y0)))))

/-- SYNC_FULL: the whole framebuffer to RDRAM at the colour-image address (R424). -/
def execSyncFull (s : State) : Result :=
  .next { s with rdram := frameWriteback s.params s.rdram s.rdp.fb s.rdp.render.colorImage.addr.toNat }

end Sys2Proof.Machine
end

