-- ==== Sys2Proof/Machine/RdpSet.lean ====
section
/-! DEFINITION. The RDP's SET commands (45_rdp section 2). A command's words have left the queue when it executes (R401), so its meaning is its effect alone (log 17). -/

namespace Sys2Proof.Machine

/-- SET_COLOR_IMAGE (R410). -/
def execSetColorImage (format : BitVec 3) (size : BitVec 2) (width : Nat) (addr : BitVec 26) (s : State) : Result :=
  .next (s.setRender { s.rdp.render with colorImage := ⟨format, size, width, addr⟩ })

/-- SET_TEXTURE_IMAGE (R411). -/
def execSetTextureImage (format : BitVec 3) (size : BitVec 2) (width : Nat) (addr : BitVec 26) (s : State) : Result :=
  .next (s.setRender { s.rdp.render with texImage := ⟨format, size, width, addr⟩ })

/-- SET_FILL_COLOR (R412). -/
def execSetFillColor (color : Word) (s : State) : Result :=
  .next (s.setRender { s.rdp.render with fillColor := color })

/-- SET_FOG_COLOR (R413). -/
def execSetFogColor (color : Word) (s : State) : Result :=
  .next (s.setRender { s.rdp.render with fogColor := color })

/-- SET_BLEND_COLOR (R414). -/
def execSetBlendColor (color : Word) (s : State) : Result :=
  .next (s.setRender { s.rdp.render with blendColor := color })

/-- SET_ENV_COLOR (R415). -/
def execSetEnvColor (color : Word) (s : State) : Result :=
  .next (s.setRender { s.rdp.render with envColor := color })

/-- SET_COMBINE_MODE: the two combine-mode words (R416). -/
def execSetCombineMode (c0 : BitVec 24) (c1 : Word) (s : State) : Result :=
  .next (s.setRender { s.rdp.render with combine0 := c0, combine1 := c1 })

/-- SET_SCISSOR: stored only, it does not clip (R417, R405). -/
def execSetScissor (xh yh xl yl : BitVec 12) (s : State) : Result :=
  .next (s.setRender { s.rdp.render with scissor := ⟨xh, yh, xl, yl⟩ })

/-- SET_OTHER_MODES: the render-mode word (R418). -/
def execSetOtherModes (mode : Word) (s : State) : Result :=
  .next (s.setRender { s.rdp.render with renderMode := mode })

end Sys2Proof.Machine
end

