-- ==== Sys2Proof/Machine/RspControl.lean ====
section
/-! DEFINITION. RSP branches, jumps and BREAK (44_rsp section 4): 12-bit targets and links (R329), conditions on 32 bits. -/

namespace Sys2Proof.Machine

/-- RSP.BEQ (R363). -/
def execRspBeq (rs rt : Reg) (off : BitVec 16) (s : State) : Result :=
  .next (s.rspRetireIf (s.getR rs == s.getR rt) (rspBranchTarget s.rsp.pc off))

/-- RSP.BNE (R364). -/
def execRspBne (rs rt : Reg) (off : BitVec 16) (s : State) : Result :=
  .next (s.rspRetireIf (s.getR rs != s.getR rt) (rspBranchTarget s.rsp.pc off))

/-- RSP.BLEZ (R365). -/
def execRspBlez (rs : Reg) (off : BitVec 16) (s : State) : Result :=
  .next (s.rspRetireIf (isNonPositive (s.getR rs)) (rspBranchTarget s.rsp.pc off))

/-- RSP.BGTZ (R366). -/
def execRspBgtz (rs : Reg) (off : BitVec 16) (s : State) : Result :=
  .next (s.rspRetireIf (isPositive (s.getR rs)) (rspBranchTarget s.rsp.pc off))

/-- RSP.BLTZ (R367). -/
def execRspBltz (rs : Reg) (off : BitVec 16) (s : State) : Result :=
  .next (s.rspRetireIf (isNegative (s.getR rs)) (rspBranchTarget s.rsp.pc off))

/-- RSP.BGEZ (R368). -/
def execRspBgez (rs : Reg) (off : BitVec 16) (s : State) : Result :=
  .next (s.rspRetireIf (isNonNegative (s.getR rs)) (rspBranchTarget s.rsp.pc off))

/-- RSP.BLTZAL: links whether or not taken; the condition is read first (R369). -/
def execRspBltzal (rs : Reg) (off : BitVec 16) (s : State) : Result :=
  .next ((s.setR 31#5 (rspLinkValue s.rsp.pc)).rspRetireIf (isNegative (s.getR rs)) (rspBranchTarget s.rsp.pc off))

/-- RSP.BGEZAL: links whether or not taken; the condition is read first (R370). -/
def execRspBgezal (rs : Reg) (off : BitVec 16) (s : State) : Result :=
  .next ((s.setR 31#5 (rspLinkValue s.rsp.pc)).rspRetireIf (isNonNegative (s.getR rs)) (rspBranchTarget s.rsp.pc off))

/-- RSP.J (R371). -/
def execRspJ (target : BitVec 26) (s : State) : Result :=
  .next (s.rspRetireIf true (rspJumpTarget target))

/-- RSP.JAL (R373). -/
def execRspJal (target : BitVec 26) (s : State) : Result :=
  .next ((s.setR 31#5 (rspLinkValue s.rsp.pc)).rspRetireIf true (rspJumpTarget target))

/-- RSP.JR (R374). -/
def execRspJr (rs : Reg) (s : State) : Result :=
  .next (s.rspRetireIf true (s.rspRegisterTarget rs))

/-- RSP.JALR: the target is read before the link is written (R375). -/
def execRspJalr (rd rs : Reg) (s : State) : Result :=
  .next ((s.setR rd (rspLinkValue s.rsp.pc)).rspRetireIf true (s.rspRegisterTarget rs))

/-- RSP.BREAK: sets broke and itself retires (R353). -/
def execRspBreak (_code : BitVec 20) (s : State) : Result :=
  .next (s.setRun .broke).rspRetire

end Sys2Proof.Machine
end

