-- ==== Sys2Proof/Machine/RspMemory.lean ====
section
/-! DEFINITION. RSP scalar loads and stores (44_rsp section 3): DMEM only, no alignment requirement, no fault (R322). -/

namespace Sys2Proof.Machine

/-- RSP.LB (R355). -/
def execRspLb (rt base : Reg) (off : BitVec 16) (s : State) : Result :=
  .next (s.setR rt (((s.dmemRead (s.rspEa base off) .byte).setWidth 8).signExtend 32)).rspRetire

/-- RSP.LBU (R356). -/
def execRspLbu (rt base : Reg) (off : BitVec 16) (s : State) : Result :=
  .next (s.setR rt (((s.dmemRead (s.rspEa base off) .byte).setWidth 8).setWidth 32)).rspRetire

/-- RSP.LH (R357). -/
def execRspLh (rt base : Reg) (off : BitVec 16) (s : State) : Result :=
  .next (s.setR rt (((s.dmemRead (s.rspEa base off) .half).setWidth 16).signExtend 32)).rspRetire

/-- RSP.LHU (R358). -/
def execRspLhu (rt base : Reg) (off : BitVec 16) (s : State) : Result :=
  .next (s.setR rt (((s.dmemRead (s.rspEa base off) .half).setWidth 16).setWidth 32)).rspRetire

/-- RSP.LW (R359). -/
def execRspLw (rt base : Reg) (off : BitVec 16) (s : State) : Result :=
  .next (s.setR rt (s.dmemRead (s.rspEa base off) .word)).rspRetire

/-- RSP.SB (R360). -/
def execRspSb (rt base : Reg) (off : BitVec 16) (s : State) : Result :=
  .next (s.dmemWrite (s.rspEa base off) .byte (s.getR rt)).rspRetire

/-- RSP.SH (R361). -/
def execRspSh (rt base : Reg) (off : BitVec 16) (s : State) : Result :=
  .next (s.dmemWrite (s.rspEa base off) .half (s.getR rt)).rspRetire

/-- RSP.SW (R362). -/
def execRspSw (rt base : Reg) (off : BitVec 16) (s : State) : Result :=
  .next (s.dmemWrite (s.rspEa base off) .word (s.getR rt)).rspRetire

end Sys2Proof.Machine
end

