-- ==== Sys2Proof/Machine/RspScalar.lean ====
section
/-! DEFINITION. RSP scalar arithmetic, logic, shift and compare (44_rsp section 2): 32 bits, none raises (R328). -/

namespace Sys2Proof.Machine

/-- RSP.ADD: no overflow trap (R330). -/
def execRspAdd (rd rs rt : Reg) (s : State) : Result :=
  .next (s.setR rd (s.getR rs + s.getR rt)).rspRetire

/-- RSP.ADDU (R331). -/
def execRspAddu (rd rs rt : Reg) (s : State) : Result :=
  .next (s.setR rd (s.getR rs + s.getR rt)).rspRetire

/-- RSP.SUB: no overflow trap (R332). -/
def execRspSub (rd rs rt : Reg) (s : State) : Result :=
  .next (s.setR rd (s.getR rs - s.getR rt)).rspRetire

/-- RSP.SUBU (R333). -/
def execRspSubu (rd rs rt : Reg) (s : State) : Result :=
  .next (s.setR rd (s.getR rs - s.getR rt)).rspRetire

/-- RSP.AND (R334). -/
def execRspAnd (rd rs rt : Reg) (s : State) : Result :=
  .next (s.setR rd (s.getR rs &&& s.getR rt)).rspRetire

/-- RSP.OR (R335). -/
def execRspOr (rd rs rt : Reg) (s : State) : Result :=
  .next (s.setR rd (s.getR rs ||| s.getR rt)).rspRetire

/-- RSP.XOR (R336). -/
def execRspXor (rd rs rt : Reg) (s : State) : Result :=
  .next (s.setR rd (s.getR rs ^^^ s.getR rt)).rspRetire

/-- RSP.NOR (R337). -/
def execRspNor (rd rs rt : Reg) (s : State) : Result :=
  .next (s.setR rd (~~~(s.getR rs ||| s.getR rt))).rspRetire

/-- RSP.SLT (R338). -/
def execRspSlt (rd rs rt : Reg) (s : State) : Result :=
  .next (s.setR rd (boolWord 32 ((s.getR rs).slt (s.getR rt)))).rspRetire

/-- RSP.SLTU (R339). -/
def execRspSltu (rd rs rt : Reg) (s : State) : Result :=
  .next (s.setR rd (boolWord 32 ((s.getR rs).ult (s.getR rt)))).rspRetire

/-- RSP.SLL; the word 0x00000000 is the no-op (R340). -/
def execRspSll (rd rt : Reg) (shamt : BitVec 5) (s : State) : Result :=
  .next (s.setR rd (s.getR rt <<< shamt.toNat)).rspRetire

/-- RSP.SRL (R341). -/
def execRspSrl (rd rt : Reg) (shamt : BitVec 5) (s : State) : Result :=
  .next (s.setR rd (s.getR rt >>> shamt.toNat)).rspRetire

/-- RSP.SRA (R342). -/
def execRspSra (rd rt : Reg) (shamt : BitVec 5) (s : State) : Result :=
  .next (s.setR rd ((s.getR rt).sshiftRight shamt.toNat)).rspRetire

/-- RSP.SLLV (R343). -/
def execRspSllv (rd rt rs : Reg) (s : State) : Result :=
  .next (s.setR rd (s.getR rt <<< s.rspShiftCount rs)).rspRetire

/-- RSP.SRLV (R344). -/
def execRspSrlv (rd rt rs : Reg) (s : State) : Result :=
  .next (s.setR rd (s.getR rt >>> s.rspShiftCount rs)).rspRetire

/-- RSP.SRAV (R345). -/
def execRspSrav (rd rt rs : Reg) (s : State) : Result :=
  .next (s.setR rd ((s.getR rt).sshiftRight (s.rspShiftCount rs))).rspRetire

/-- RSP.ADDI: no overflow trap (R346). -/
def execRspAddi (rt rs : Reg) (imm : BitVec 16) (s : State) : Result :=
  .next (s.setR rt (s.getR rs + immWord imm)).rspRetire

/-- RSP.ADDIU (R347). -/
def execRspAddiu (rt rs : Reg) (imm : BitVec 16) (s : State) : Result :=
  .next (s.setR rt (s.getR rs + immWord imm)).rspRetire

/-- RSP.SLTI (R348). -/
def execRspSlti (rt rs : Reg) (imm : BitVec 16) (s : State) : Result :=
  .next (s.setR rt (boolWord 32 ((s.getR rs).slt (immWord imm)))).rspRetire

/-- RSP.SLTIU: the immediate is sign-extended, then compared as unsigned (R349). -/
def execRspSltiu (rt rs : Reg) (imm : BitVec 16) (s : State) : Result :=
  .next (s.setR rt (boolWord 32 ((s.getR rs).ult (immWord imm)))).rspRetire

/-- RSP.ANDI (R350). -/
def execRspAndi (rt rs : Reg) (imm : BitVec 16) (s : State) : Result :=
  .next (s.setR rt (s.getR rs &&& immZeroWord imm)).rspRetire

/-- RSP.ORI (R351). -/
def execRspOri (rt rs : Reg) (imm : BitVec 16) (s : State) : Result :=
  .next (s.setR rt (s.getR rs ||| immZeroWord imm)).rspRetire

/-- RSP.XORI (R352). -/
def execRspXori (rt rs : Reg) (imm : BitVec 16) (s : State) : Result :=
  .next (s.setR rt (s.getR rs ^^^ immZeroWord imm)).rspRetire

/-- RSP.LUI (R354). -/
def execRspLui (rt : Reg) (imm : BitVec 16) (s : State) : Result :=
  .next (s.setR rt (immUpper imm)).rspRetire

end Sys2Proof.Machine
end

