-- ==== Sys2Proof/Machine/RspVector.lean ====
section
/-! DEFINITION. RSP vector instructions (44_rsp section 5). There is no accumulator and no vector flag (10_state R45). -/

namespace Sys2Proof.Machine

/-- The 32-bit two's-complement form of the exact signed product (R379). -/
def signedProduct (a b : Lane) : Word := BitVec.ofInt 32 (a.toInt * b.toInt)

/-- The exact unsigned product (R382). -/
def unsignedProduct (a b : Lane) : Word := BitVec.ofNat 32 (a.toNat * b.toNat)

/-- VMULF: signed multiply, high half (R379). -/
def execVmulf (vd vs vt : Reg) (e : BitVec 4) (s : State) : Result :=
  .next (s.laneOp (fun a b => (signedProduct a b).extractLsb' 16 16) vd vs vt e).rspRetire

/-- VMUDL: unsigned multiply, high half (R382). -/
def execVmudl (vd vs vt : Reg) (e : BitVec 4) (s : State) : Result :=
  .next (s.laneOp (fun a b => (unsignedProduct a b).extractLsb' 16 16) vd vs vt e).rspRetire

/-- VMUDN: unsigned multiply, low half (R383). -/
def execVmudn (vd vs vt : Reg) (e : BitVec 4) (s : State) : Result :=
  .next (s.laneOp (fun a b => (unsignedProduct a b).extractLsb' 0 16) vd vs vt e).rspRetire

/-- VMUDH: signed multiply, low half (R384). -/
def execVmudh (vd vs vt : Reg) (e : BitVec 4) (s : State) : Result :=
  .next (s.laneOp (fun a b => (signedProduct a b).extractLsb' 0 16) vd vs vt e).rspRetire

/-- VADD: wraps, no saturation (R377). -/
def execVadd (vd vs vt : Reg) (e : BitVec 4) (s : State) : Result :=
  .next (s.laneOp (fun a b => a + b) vd vs vt e).rspRetire

/-- VSUB: wraps, no saturation (R378). -/
def execVsub (vd vs vt : Reg) (e : BitVec 4) (s : State) : Result :=
  .next (s.laneOp (fun a b => a - b) vd vs vt e).rspRetire

/-- VSAR, "an accumulator-write placeholder": only the program counter advances (R372). -/
def execVsar (_vd _vs _vt : Reg) (_e : BitVec 4) (s : State) : Result :=
  .next s.rspRetire

/-- The eight lanes at `a`: lane `i` is the halfword at `a + 2i` (R385). -/
def State.readLanes (s : State) (a : Nat) : Vector Lane 8 :=
  #v[(s.dmemRead a .half).setWidth 16, (s.dmemRead (a + 2) .half).setWidth 16,
    (s.dmemRead (a + 4) .half).setWidth 16, (s.dmemRead (a + 6) .half).setWidth 16,
    (s.dmemRead (a + 8) .half).setWidth 16, (s.dmemRead (a + 10) .half).setWidth 16,
    (s.dmemRead (a + 12) .half).setWidth 16, (s.dmemRead (a + 14) .half).setWidth 16]

/-- Write the eight lanes at `a`, in order (R386). -/
def State.writeLanes (s : State) (a : Nat) (lanes : Vector Lane 8) : State :=
  (List.range 8).foldl (fun t i => t.dmemWrite (a + 2 * i) .half ((lanes.toList.getD i 0#16).setWidth 32)) s

/-- LQV: sixteen bytes, whatever the alignment (R385). -/
def execLqv (vt base : Reg) (off : BitVec 7) (s : State) : Result :=
  .next (s.setV vt (s.readLanes (s.quadEa base off))).rspRetire

/-- SQV (R386). -/
def execSqv (vt base : Reg) (off : BitVec 7) (s : State) : Result :=
  .next (s.writeLanes (s.quadEa base off) (s.getV vt)).rspRetire

end Sys2Proof.Machine
end

