-- ==== Sys2Proof/Machine/System.lean ====
section
/-! DEFINITION. CPU system instructions (43_cpu_system). There is one privilege level: every one of them always runs
(60 R480). -/

namespace Sys2Proof.Machine

/-- MFC0: the slot, or the read view of Cause, sign-extended (R300). -/
def execMfc0 (rt rd : Reg) (s : State) : Result :=
  .next (s.setW rt (s.readC0 rd)).retire

/-- MTC0 (R301). -/
def execMtc0 (rt rd : Reg) (s : State) : Result :=
  .next (s.writeC0 rd (s.getW rt)).retire

/-- ERET: it redirects, so nothing advances (R304). -/
def execEret (s : State) : Result := .next s.returnFromException

/-- SYSCALL: raises Sys; the hardware ignores the code (R307). -/
def execSyscall (_code : BitVec 20) (s : State) : Result := .next (s.enterException .sys)

/-- BREAK: raises Bp; the hardware ignores the code (R308). -/
def execBrk (_code : BitVec 20) (s : State) : Result := .next (s.enterException .bp)

end Sys2Proof.Machine
end

