-- ==== Sys2Proof/Machine/Dispatch.lean ====
section
/-! DEFINITION. exec: one arm per constructor of Instr, each one direct call of its meaning. -/

namespace Sys2Proof.Machine

def exec (i : Instr) (s : State) : Host.Outcome State Fault Refusal :=
  match i with
  | .sll rd rt shamt => Sys2Proof.Machine.execSll rd rt shamt s
  | .srl rd rt shamt => Sys2Proof.Machine.execSrl rd rt shamt s
  | .sra rd rt shamt => Sys2Proof.Machine.execSra rd rt shamt s
  | .sllv rd rt rs => Sys2Proof.Machine.execSllv rd rt rs s
  | .srlv rd rt rs => Sys2Proof.Machine.execSrlv rd rt rs s
  | .srav rd rt rs => Sys2Proof.Machine.execSrav rd rt rs s
  | .jr rs => Sys2Proof.Machine.execJr rs s
  | .jalr rd rs => Sys2Proof.Machine.execJalr rd rs s
  | .syscall code => Sys2Proof.Machine.execSyscall code s
  | .brk code => Sys2Proof.Machine.execBrk code s
  | .mfhi rd => Sys2Proof.Machine.execMfhi rd s
  | .mthi rs => Sys2Proof.Machine.execMthi rs s
  | .mflo rd => Sys2Proof.Machine.execMflo rd s
  | .mtlo rs => Sys2Proof.Machine.execMtlo rs s
  | .mult rs rt => Sys2Proof.Machine.execMult rs rt s
  | .multu rs rt => Sys2Proof.Machine.execMultu rs rt s
  | .div rs rt => Sys2Proof.Machine.execDiv rs rt s
  | .divu rs rt => Sys2Proof.Machine.execDivu rs rt s
  | .add rd rs rt => Sys2Proof.Machine.execAdd rd rs rt s
  | .addu rd rs rt => Sys2Proof.Machine.execAddu rd rs rt s
  | .sub rd rs rt => Sys2Proof.Machine.execSub rd rs rt s
  | .subu rd rs rt => Sys2Proof.Machine.execSubu rd rs rt s
  | .and rd rs rt => Sys2Proof.Machine.execAnd rd rs rt s
  | .or rd rs rt => Sys2Proof.Machine.execOr rd rs rt s
  | .xor rd rs rt => Sys2Proof.Machine.execXor rd rs rt s
  | .nor rd rs rt => Sys2Proof.Machine.execNor rd rs rt s
  | .slt rd rs rt => Sys2Proof.Machine.execSlt rd rs rt s
  | .sltu rd rs rt => Sys2Proof.Machine.execSltu rd rs rt s
  | .bltz rs off => Sys2Proof.Machine.execBltz rs off s
  | .bgez rs off => Sys2Proof.Machine.execBgez rs off s
  | .bltzal rs off => Sys2Proof.Machine.execBltzal rs off s
  | .bgezal rs off => Sys2Proof.Machine.execBgezal rs off s
  | .j target => Sys2Proof.Machine.execJ target s
  | .jal target => Sys2Proof.Machine.execJal target s
  | .beq rs rt off => Sys2Proof.Machine.execBeq rs rt off s
  | .bne rs rt off => Sys2Proof.Machine.execBne rs rt off s
  | .blez rs off => Sys2Proof.Machine.execBlez rs off s
  | .bgtz rs off => Sys2Proof.Machine.execBgtz rs off s
  | .addi rt rs imm => Sys2Proof.Machine.execAddi rt rs imm s
  | .addiu rt rs imm => Sys2Proof.Machine.execAddiu rt rs imm s
  | .slti rt rs imm => Sys2Proof.Machine.execSlti rt rs imm s
  | .sltiu rt rs imm => Sys2Proof.Machine.execSltiu rt rs imm s
  | .andi rt rs imm => Sys2Proof.Machine.execAndi rt rs imm s
  | .ori rt rs imm => Sys2Proof.Machine.execOri rt rs imm s
  | .xori rt rs imm => Sys2Proof.Machine.execXori rt rs imm s
  | .lui rt imm => Sys2Proof.Machine.execLui rt imm s
  | .lb rt base off => Sys2Proof.Machine.execLb rt base off s
  | .lh rt base off => Sys2Proof.Machine.execLh rt base off s
  | .lw rt base off => Sys2Proof.Machine.execLw rt base off s
  | .lbu rt base off => Sys2Proof.Machine.execLbu rt base off s
  | .lhu rt base off => Sys2Proof.Machine.execLhu rt base off s
  | .lwu rt base off => Sys2Proof.Machine.execLwu rt base off s
  | .sb rt base off => Sys2Proof.Machine.execSb rt base off s
  | .sh rt base off => Sys2Proof.Machine.execSh rt base off s
  | .sw rt base off => Sys2Proof.Machine.execSw rt base off s
  | .ll rt base off => Sys2Proof.Machine.execLl rt base off s
  | .sc rt base off => Sys2Proof.Machine.execSc rt base off s
  | .mfc0 rt rd => Sys2Proof.Machine.execMfc0 rt rd s
  | .mtc0 rt rd => Sys2Proof.Machine.execMtc0 rt rd s
  | .eret => Sys2Proof.Machine.execEret s
  | .rspSll rd rt shamt => Sys2Proof.Machine.execRspSll rd rt shamt s
  | .rspSrl rd rt shamt => Sys2Proof.Machine.execRspSrl rd rt shamt s
  | .rspSra rd rt shamt => Sys2Proof.Machine.execRspSra rd rt shamt s
  | .rspSllv rd rt rs => Sys2Proof.Machine.execRspSllv rd rt rs s
  | .rspSrlv rd rt rs => Sys2Proof.Machine.execRspSrlv rd rt rs s
  | .rspSrav rd rt rs => Sys2Proof.Machine.execRspSrav rd rt rs s
  | .rspJr rs => Sys2Proof.Machine.execRspJr rs s
  | .rspJalr rd rs => Sys2Proof.Machine.execRspJalr rd rs s
  | .rspBreak code => Sys2Proof.Machine.execRspBreak code s
  | .rspAdd rd rs rt => Sys2Proof.Machine.execRspAdd rd rs rt s
  | .rspAddu rd rs rt => Sys2Proof.Machine.execRspAddu rd rs rt s
  | .rspSub rd rs rt => Sys2Proof.Machine.execRspSub rd rs rt s
  | .rspSubu rd rs rt => Sys2Proof.Machine.execRspSubu rd rs rt s
  | .rspAnd rd rs rt => Sys2Proof.Machine.execRspAnd rd rs rt s
  | .rspOr rd rs rt => Sys2Proof.Machine.execRspOr rd rs rt s
  | .rspXor rd rs rt => Sys2Proof.Machine.execRspXor rd rs rt s
  | .rspNor rd rs rt => Sys2Proof.Machine.execRspNor rd rs rt s
  | .rspSlt rd rs rt => Sys2Proof.Machine.execRspSlt rd rs rt s
  | .rspSltu rd rs rt => Sys2Proof.Machine.execRspSltu rd rs rt s
  | .rspBltz rs off => Sys2Proof.Machine.execRspBltz rs off s
  | .rspBgez rs off => Sys2Proof.Machine.execRspBgez rs off s
  | .rspBltzal rs off => Sys2Proof.Machine.execRspBltzal rs off s
  | .rspBgezal rs off => Sys2Proof.Machine.execRspBgezal rs off s
  | .rspJ target => Sys2Proof.Machine.execRspJ target s
  | .rspJal target => Sys2Proof.Machine.execRspJal target s
  | .rspBeq rs rt off => Sys2Proof.Machine.execRspBeq rs rt off s
  | .rspBne rs rt off => Sys2Proof.Machine.execRspBne rs rt off s
  | .rspBlez rs off => Sys2Proof.Machine.execRspBlez rs off s
  | .rspBgtz rs off => Sys2Proof.Machine.execRspBgtz rs off s
  | .rspAddi rt rs imm => Sys2Proof.Machine.execRspAddi rt rs imm s
  | .rspAddiu rt rs imm => Sys2Proof.Machine.execRspAddiu rt rs imm s
  | .rspSlti rt rs imm => Sys2Proof.Machine.execRspSlti rt rs imm s
  | .rspSltiu rt rs imm => Sys2Proof.Machine.execRspSltiu rt rs imm s
  | .rspAndi rt rs imm => Sys2Proof.Machine.execRspAndi rt rs imm s
  | .rspOri rt rs imm => Sys2Proof.Machine.execRspOri rt rs imm s
  | .rspXori rt rs imm => Sys2Proof.Machine.execRspXori rt rs imm s
  | .rspLui rt imm => Sys2Proof.Machine.execRspLui rt imm s
  | .rspLb rt base off => Sys2Proof.Machine.execRspLb rt base off s
  | .rspLh rt base off => Sys2Proof.Machine.execRspLh rt base off s
  | .rspLw rt base off => Sys2Proof.Machine.execRspLw rt base off s
  | .rspLbu rt base off => Sys2Proof.Machine.execRspLbu rt base off s
  | .rspLhu rt base off => Sys2Proof.Machine.execRspLhu rt base off s
  | .rspSb rt base off => Sys2Proof.Machine.execRspSb rt base off s
  | .rspSh rt base off => Sys2Proof.Machine.execRspSh rt base off s
  | .rspSw rt base off => Sys2Proof.Machine.execRspSw rt base off s
  | .vmulf vd vs vt e => Sys2Proof.Machine.execVmulf vd vs vt e s
  | .vmudl vd vs vt e => Sys2Proof.Machine.execVmudl vd vs vt e s
  | .vmudn vd vs vt e => Sys2Proof.Machine.execVmudn vd vs vt e s
  | .vmudh vd vs vt e => Sys2Proof.Machine.execVmudh vd vs vt e s
  | .vadd vd vs vt e => Sys2Proof.Machine.execVadd vd vs vt e s
  | .vsub vd vs vt e => Sys2Proof.Machine.execVsub vd vs vt e s
  | .vsar vd vs vt e => Sys2Proof.Machine.execVsar vd vs vt e s
  | .lqv vt base off => Sys2Proof.Machine.execLqv vt base off s
  | .sqv vt base off => Sys2Proof.Machine.execSqv vt base off s
  | .setColorImage format size width addr => Sys2Proof.Machine.execSetColorImage format size width addr s
  | .setTextureImage format size width addr => Sys2Proof.Machine.execSetTextureImage format size width addr s
  | .setFillColor color => Sys2Proof.Machine.execSetFillColor color s
  | .setFogColor color => Sys2Proof.Machine.execSetFogColor color s
  | .setBlendColor color => Sys2Proof.Machine.execSetBlendColor color s
  | .setEnvColor color => Sys2Proof.Machine.execSetEnvColor color s
  | .setCombineMode c0 c1 => Sys2Proof.Machine.execSetCombineMode c0 c1 s
  | .setScissor xh yh xl yl => Sys2Proof.Machine.execSetScissor xh yh xl yl s
  | .setOtherModes mode => Sys2Proof.Machine.execSetOtherModes mode s
  | .fillRectangle xl yl xh yh => Sys2Proof.Machine.execFillRectangle xl yl xh yh s
  | .textureRectangle xl yl tile xh yh sCoord tCoord dsdx dtdy => Sys2Proof.Machine.execTextureRectangle xl yl tile xh yh sCoord tCoord dsdx dtdy s
  | .syncFull => Sys2Proof.Machine.execSyncFull s

end Sys2Proof.Machine
end

