-- ==== Sys2Proof/Machine/Ports.lean ====
section
/-! DEFINITION. The ports of 00_scope R11: each call is one atomic transition (00_scope R5, 20_memory R93). The CPU step,
the RSP step and burst, the RDP drain, and the host's own ports. -/

namespace Sys2Proof.Machine

/-- Go on from a next state; a stop stays a stop. -/
def andThen (r : Result) (f : State → Result) : Result :=
  match r with
  | .next s => f s
  | .fault e => .fault e
  | .refused e => .refused e

/-- What the call returns to its caller (log 3). -/
def State.setReply (s : State) (r : Reply) : State := { s with reply := r }

/-- Decode and execute one CPU word; an unrecognised one raises reserved-instruction (40 R182, 60 R455). -/
def cpuExecute (w : Word) (s : State) : Result :=
  match decodeCpuWord w with
  | .ok i => exec i s
  | .error _ => .next (s.enterException .ri)

/-- CPU `step()`: fetch, execute, poll; returns CYCLE_COST (40 R180). After an exception the poll does nothing, since EL
is 1 (60 R471; log 16). -/
def cpuStep (s : State) : Result :=
  andThen (cpuExecute s.fetch s) fun t => .next (t.poll.setReply (.cycles (Config.cycleCost s.fetch)))

/-- Decode and execute one RSP word; an unrecognised one is a no-op (44 R320, 30_encoding R155). -/
def rspExecute (w : Word) (s : State) : Result :=
  match decodeRspWord w with
  | .ok i => exec i s
  | .error _ => .next s.rspRetire

/-- `rsp_step()` (44 R320). -/
def rspStepOnce (s : State) : Result := rspExecute (s.imemRead s.rsp.pc) s

/-- At most `n` RSP steps, while running (44 R325). -/
def rspBurst (n : Nat) (s : State) : Result :=
  match n with
  | 0 => .next s
  | n + 1 => if s.rsp.run = .running then andThen (rspStepOnce s) fun t => rspBurst n t else .next s

/-- The drain loop, with fuel: every turn takes at least one word off the queue (45 R401). A command cut off by the end
of the queue is dropped (R402); an unknown opcode is skipped by length (R404). -/
def drain (fuel : Nat) (s : State) : Result :=
  match fuel with
  | 0 => .next s
  | fuel + 1 =>
    match s.rdp.queue with
    | [] => .next s
    | w0 :: rest =>
      if rest.length < s.params.rdpLen (fieldOpcode w0) then .next (s.setQueue [])
      else
        match decodeRdpCommand w0 (rest.take (s.params.rdpLen (fieldOpcode w0))) with
        | .ok i =>
          andThen (exec i (s.setQueue (rest.drop (s.params.rdpLen (fieldOpcode w0))))) fun t => drain fuel t
        | .error _ => drain fuel (s.setQueue (rest.drop (s.params.rdpLen (fieldOpcode w0))))

/-- `processCommands()`: drain the entire queue (45 R401). -/
def processCommands (s : State) : Result := drain s.rdp.queue.length s

/-- `reset()`: every item at its value of 10_state R54; memories, the Cartridge and the FPU file unchanged (log 8), the
host's schedule (log 20), and the parameters (log 31). -/
def State.resetPort (s : State) : State :=
  { State.init s.params with
    cpu := { Cpu.reset s.params with fpr := s.cpu.fpr }
    rsp := { Rsp.reset with imem := s.rsp.imem, dmem := s.rsp.dmem }
    rdram := s.rdram
    cart := s.cart
    calls := s.calls }

/-- The bit of an interrupt line (10_state R25). -/
def irqBit : IrqLine → BitVec 4
  | .video => 0b0001#4
  | .serial => 0b0010#4
  | .peripheral => 0b0100#4
  | .audio => 0b1000#4

/-- `irq_set(line)` (60 R470). -/
def State.irqSet (s : State) (line : IrqLine) : State :=
  { s with cpu := { s.cpu with irq := s.cpu.irq ||| irqBit line } }

/-- `irq_clear(line)` (60 R470). -/
def State.irqClear (s : State) (line : IrqLine) : State :=
  { s with cpu := { s.cpu with irq := s.cpu.irq &&& ~~~(irqBit line) } }

/-- Cartridge construction (20_memory R110): a success gives the machine a Cartridge with its bank register at 0, a
failure leaves the machine as it was (log 5). -/
def State.constructPort (s : State) (image : List Byte) : State :=
  match constructCartridge s.params saveTitleTable image with
  | .ok c => { s with cart := some c, bank := 0, reply := .cartridge none }
  | .error e => { s with reply := .cartridge (some e) }

/-- `save_load(bytes)` (20_memory R123); it fails without a cartridge (log 4). -/
def State.saveLoadPort (s : State) (bytes : List Byte) : State :=
  match s.cart.bind (fun c => c.saveLoad s.saveSize bytes) with
  | some c => { s with cart := some c, reply := .loaded true }
  | none => { s with reply := .loaded false }

/-- `save_persist()` (20_memory R124); no bytes without a cartridge (log 4). -/
def State.savePersistPort (s : State) : State :=
  match s.cart with
  | some c => { s with reply := .bytes (c.savePersist s.saveSize) }
  | none => { s with reply := .bytes [] }

/-- A call that returns nothing. -/
def finish (r : Result) : Result := andThen r fun t => .next (t.setReply .done)

/-- One port call (00_scope R11). -/
def runCall (c : PortCall) (s : State) : Result :=
  match c with
  | .reset => finish (.next s.resetPort)
  | .cpuStep => cpuStep s
  | .irqSet line => finish (.next (s.irqSet line))
  | .irqClear line => finish (.next (s.irqClear line))
  | .executeFrame => finish (rspBurst Config.rspBurstMax s)
  | .rspStep => finish (rspStepOnce s)
  | .dmaToDmem dram dmem n => finish (.next (s.dmaToDmem dram dmem n))
  | .dmaFromDmem dram dmem n => finish (.next (s.dmaFromDmem dram dmem n))
  | .kick => finish (.next s.kick)
  | .halt => finish (.next s.halt)
  | .enqueue w => finish (.next (s.enqueue w))
  | .processCommands => finish (processCommands s)
  | .readFrame => .next (s.setReply (.frame s.rdp.fb s.params.fbWidth s.params.fbHeight .rgba8888))
  | .construct image => .next (s.constructPort image)
  | .setBank n => finish (.next { s with bank := n })
  | .saveRead off n => .next (s.setReply (.value (s.saveRead off n)))
  | .saveWrite off n v => finish (.next (s.saveWrite off n v))
  | .saveLoad bytes => .next (s.saveLoadPort bytes)
  | .savePersist => .next s.savePersistPort

end Sys2Proof.Machine
end

