-- ==== Sys2Proof/Machine/Step.lean ====
section
/-! DEFINITION. One step of the machine: the next port call of the host's schedule, or CPU `step()` when the schedule is
empty (logs 1, 2); and how an instruction is put where the next step fetches it (log 15). -/

namespace Sys2Proof.Machine

/-- One step: one port call, atomic (00_scope R5, R11). -/
def step (s : State) : Host.Outcome State Fault Refusal :=
  match s.calls with
  | [] => cpuStep s
  | c :: rest => runCall c { s with calls := rest }

/-- Put a call before the host's schedule. -/
def State.callNext (s : State) (c : PortCall) : State := { s with calls := c :: s.calls }

/-- Put a word at the program counter: in place when that is RDRAM, else at 0x80001000 with pc there (log 15). -/
def State.placeCpuWord (s : State) (w : Word) : State :=
  if physAddr s.cpu.pc + 4 ≤ s.params.rdramSize then
    { s with rdram := writeBytes s.rdram s.params.rdramSize (fun i => physAddr s.cpu.pc + i) 4 w }
  else
    { s with
      cpu := { s.cpu with pc := 0x80001000#32 }
      rdram := writeBytes s.rdram s.params.rdramSize (fun i => 0x1000 + i) 4 w }

/-- Put a word in IMEM at the RSP's program counter. -/
def State.placeRspWord (s : State) (w : Word) : State :=
  { s with rsp := { s.rsp with
      imem := writeBytes s.rsp.imem Config.localSize (fun i => (s.rsp.pc &&& 0xFFC#12).toNat + i) 4 w } }

/-- `s` with the instruction stored where the very next step fetches it, and that step the call that fetches there: CPU
`step()`, RSP `step()`, or `processCommands()` (log 15). -/
def State.withFetchWord (s : State) (nbits w : Nat) : State :=
  let words := tableWords nbits w
  let w0 := words.headD 0#32
  match decodeFirst (tableBytes nbits w) with
  | some (.rsp, _) => (s.placeRspWord w0).callNext .rspStep
  | some (.rdp, _) => (s.setQueue (words.take (1 + s.params.rdpLen (fieldOpcode w0)))).callNext .processCommands
  | _ => (s.placeCpuWord w0).callNext .cpuStep

end Sys2Proof.Machine
end

