-- ==== Sys2Proof/Safety.lean ====
section
/-! DEFINITION. What the statements are said in: the invariant of the machine (10_state R52), what an instruction may change
and what it leaves as it was, and the narrowing of exact results. -/

namespace Sys2Proof

/-! ### The recognised RDP commands -/

/-- The RDP opcodes that are recognised (30_encoding R157). -/
def knownRdpOpcodes : List (BitVec 6) :=
  [0x24#6, 0x29#6, 0x2D#6, 0x2F#6, 0x36#6, 0x37#6, 0x38#6, 0x39#6, 0x3B#6, 0x3C#6, 0x3D#6, 0x3F#6]

/-- What the parameters must satisfy: RESET_PC and the two vectors are 4-byte aligned, since they become the pc (10_state
R21), and RDP_LEN gives every recognised command at least the words that hold its operands (45_rdp R403). -/
structure Params.Ok (p : Params) : Prop where
  resetAligned : p.resetPc &&& 3#32 = 0#32
  normalAligned : p.vecNormal &&& 3#32 = 0#32
  bootAligned : p.vecBoot &&& 3#32 = 0#32
  commandLengths : ∀ op ∈ knownRdpOpcodes, 1 ≤ p.rdpLen op
  textureLength : 3 ≤ p.rdpLen 0x24#6

end Sys2Proof

namespace Sys2Proof.Machine

/-! ### The invariant -/

/-- The CPU's part: register 0 holds 0, pc and the pending target are 4-byte aligned, PRId and Config hold their constants
(10_state R20, R21, R37, R38, R52). -/
structure Cpu.Inv (p : Params) (c : Cpu) : Prop where
  zero : c.x[0] = 0#64
  pcAligned : c.pc &&& 3#32 = 0#32
  targetAligned : c.pendingTarget &&& 3#32 = 0#32
  prid : c.cop0[15] = p.pridValue
  config : c.cop0[16] = p.configValue

/-- The RSP's part: register 0 holds 0, pc and the pending target are aligned, both local memories are canonical and have
4096 bytes (10_state R43, R44, R52). -/
structure Rsp.Inv (r : Rsp) : Prop where
  zero : r.x[0] = 0#32
  pcAligned : r.pc &&& 3#12 = 0#12
  targetAligned : r.pendingTarget &&& 3#12 = 0#12
  imem : Store.Canonical r.imem ∧ Store.Below r.imem Config.localSize
  dmem : Store.Canonical r.dmem ∧ Store.Below r.dmem Config.localSize

/-- A width is a number 1 to 1024 (10_state R49). -/
abbrev WidthOk (d : ImageDesc) : Prop := 1 ≤ d.width ∧ d.width ≤ 1024

/-- The RDP's part: the framebuffer is canonical and has FB_WIDTH * FB_HEIGHT pixels, the two widths are in range, DPC_START
is a multiple of 4 (10_state R49 to R51, 20_memory R100). -/
structure Rdp.Inv (p : Params) (r : Rdp) : Prop where
  fb : Store.Canonical r.fb ∧ Store.Below r.fb p.fbPixels
  colorWidth : WidthOk r.render.colorImage
  texWidth : WidthOk r.render.texImage
  startAligned : r.dpcStart &&& 3#24 = 0#24

/-- A Cartridge: the ROM is at least 0x40 bytes and the save buffer has the size of its type (10_state R41, R42, R52). -/
structure Cartridge.Inv (p : Params) (c : Cartridge) : Prop where
  romSize : 0x40 ≤ c.rom.length
  save : Store.Canonical c.save ∧ Store.Below c.save (p.saveSize c.saveType)

/-- The invariant of the machine (10_state R52 and the shapes of R20 to R51). -/
structure State.Inv (s : State) : Prop where
  params : s.params.Ok
  cpu : s.cpu.Inv s.params
  rsp : s.rsp.Inv
  rdp : s.rdp.Inv s.params
  rdram : Store.Canonical s.rdram ∧ Store.Below s.rdram s.params.rdramSize
  cart : ∀ c, s.cart = some c → c.Inv s.params

/-! ### Exact results narrowed -/

/-- `sext_32` of an exact integer taken modulo 2^32, as a 64-bit register (40 R187 (a)). -/
def wordResult (n : Int) : DWord := BitVec.ofInt 64 (n.bmod (2 ^ 32))

/-- A register whose bits 63:32 all equal bit 31 (40 R187). -/
def IsCanonical (v : DWord) : Prop := ∀ k, 32 ≤ k → k < 64 → v.getLsbD k = v.getLsbD 31

/-- An exact integer that a signed 32-bit word can hold (40 R188). -/
abbrev FitsWord (n : Int) : Prop := -2 ^ 31 ≤ n ∧ n ≤ 2 ^ 31 - 1

/-! ### The CPU and RSP rows of the opcode table -/

/-- Rows of spec/opcode_table.json, as (mask, match): SLL to MULT. -/
def cpuRows1 : List (Word × Word) :=
  [(0xFC00003F#32, 0x00000000#32), (0xFC00003F#32, 0x00000002#32), (0xFC00003F#32, 0x00000003#32), (0xFC00003F#32, 0x00000004#32),
    (0xFC00003F#32, 0x00000006#32), (0xFC00003F#32, 0x00000007#32), (0xFC00003F#32, 0x00000008#32), (0xFC00003F#32, 0x00000009#32),
    (0xFC00003F#32, 0x0000000C#32), (0xFC00003F#32, 0x0000000D#32), (0xFC00003F#32, 0x00000010#32), (0xFC00003F#32, 0x00000011#32),
    (0xFC00003F#32, 0x00000012#32), (0xFC00003F#32, 0x00000013#32), (0xFC00003F#32, 0x00000018#32)]

/-- Rows of spec/opcode_table.json, as (mask, match): MULTU to BGEZ. -/
def cpuRows2 : List (Word × Word) :=
  [(0xFC00003F#32, 0x00000019#32), (0xFC00003F#32, 0x0000001A#32), (0xFC00003F#32, 0x0000001B#32), (0xFC00003F#32, 0x00000020#32),
    (0xFC00003F#32, 0x00000021#32), (0xFC00003F#32, 0x00000022#32), (0xFC00003F#32, 0x00000023#32), (0xFC00003F#32, 0x00000024#32),
    (0xFC00003F#32, 0x00000025#32), (0xFC00003F#32, 0x00000026#32), (0xFC00003F#32, 0x00000027#32), (0xFC00003F#32, 0x0000002A#32),
    (0xFC00003F#32, 0x0000002B#32), (0xFC1F0000#32, 0x04000000#32), (0xFC1F0000#32, 0x04010000#32)]

/-- Rows of spec/opcode_table.json, as (mask, match): BLTZAL to XORI. -/
def cpuRows3 : List (Word × Word) :=
  [(0xFC1F0000#32, 0x04100000#32), (0xFC1F0000#32, 0x04110000#32), (0xFC000000#32, 0x08000000#32), (0xFC000000#32, 0x0C000000#32),
    (0xFC000000#32, 0x10000000#32), (0xFC000000#32, 0x14000000#32), (0xFC000000#32, 0x18000000#32), (0xFC000000#32, 0x1C000000#32),
    (0xFC000000#32, 0x20000000#32), (0xFC000000#32, 0x24000000#32), (0xFC000000#32, 0x28000000#32), (0xFC000000#32, 0x2C000000#32),
    (0xFC000000#32, 0x30000000#32), (0xFC000000#32, 0x34000000#32), (0xFC000000#32, 0x38000000#32)]

/-- Rows of spec/opcode_table.json, as (mask, match): LUI to ERET. -/
def cpuRows4 : List (Word × Word) :=
  [(0xFC000000#32, 0x3C000000#32), (0xFC000000#32, 0x80000000#32), (0xFC000000#32, 0x84000000#32), (0xFC000000#32, 0x8C000000#32),
    (0xFC000000#32, 0x90000000#32), (0xFC000000#32, 0x94000000#32), (0xFC000000#32, 0x9C000000#32), (0xFC000000#32, 0xA0000000#32),
    (0xFC000000#32, 0xA4000000#32), (0xFC000000#32, 0xAC000000#32), (0xFC000000#32, 0xC0000000#32), (0xFC000000#32, 0xE0000000#32),
    (0xFFE00000#32, 0x40000000#32), (0xFFE00000#32, 0x40800000#32), (0xFFE0003F#32, 0x42000018#32)]

/-- The 60 CPU rows of the opcode table. -/
def cpuRows : List (Word × Word) := cpuRows1 ++ cpuRows2 ++ cpuRows3 ++ cpuRows4

/-- Rows of spec/opcode_table.json, as (mask, match): RSP.SLL to RSP.SLTU. -/
def rspRows1 : List (Word × Word) :=
  [(0xFC00003F#32, 0x00000000#32), (0xFC00003F#32, 0x00000002#32), (0xFC00003F#32, 0x00000003#32), (0xFC00003F#32, 0x00000004#32),
    (0xFC00003F#32, 0x00000006#32), (0xFC00003F#32, 0x00000007#32), (0xFC00003F#32, 0x00000008#32), (0xFC00003F#32, 0x00000009#32),
    (0xFC00003F#32, 0x0000000D#32), (0xFC00003F#32, 0x00000020#32), (0xFC00003F#32, 0x00000021#32), (0xFC00003F#32, 0x00000022#32),
    (0xFC00003F#32, 0x00000023#32), (0xFC00003F#32, 0x00000024#32), (0xFC00003F#32, 0x00000025#32), (0xFC00003F#32, 0x00000026#32),
    (0xFC00003F#32, 0x00000027#32), (0xFC00003F#32, 0x0000002A#32), (0xFC00003F#32, 0x0000002B#32)]

/-- Rows of spec/opcode_table.json, as (mask, match): RSP.BLTZ to RSP.LB. -/
def rspRows2 : List (Word × Word) :=
  [(0xFC1F0000#32, 0x04000000#32), (0xFC1F0000#32, 0x04010000#32), (0xFC1F0000#32, 0x04100000#32), (0xFC1F0000#32, 0x04110000#32),
    (0xFC000000#32, 0x08000000#32), (0xFC000000#32, 0x0C000000#32), (0xFC000000#32, 0x10000000#32), (0xFC000000#32, 0x14000000#32),
    (0xFC000000#32, 0x18000000#32), (0xFC000000#32, 0x1C000000#32), (0xFC000000#32, 0x20000000#32), (0xFC000000#32, 0x24000000#32),
    (0xFC000000#32, 0x28000000#32), (0xFC000000#32, 0x2C000000#32), (0xFC000000#32, 0x30000000#32), (0xFC000000#32, 0x34000000#32),
    (0xFC000000#32, 0x38000000#32), (0xFC000000#32, 0x3C000000#32), (0xFC000000#32, 0x80000000#32)]

/-- Rows of spec/opcode_table.json, as (mask, match): RSP.LH to SQV. -/
def rspRows3 : List (Word × Word) :=
  [(0xFC000000#32, 0x84000000#32), (0xFC000000#32, 0x8C000000#32), (0xFC000000#32, 0x90000000#32), (0xFC000000#32, 0x94000000#32),
    (0xFC000000#32, 0xA0000000#32), (0xFC000000#32, 0xA4000000#32), (0xFC000000#32, 0xAC000000#32), (0xFE00003F#32, 0x4A000000#32),
    (0xFE00003F#32, 0x4A000004#32), (0xFE00003F#32, 0x4A000006#32), (0xFE00003F#32, 0x4A000007#32), (0xFE00003F#32, 0x4A000010#32),
    (0xFE00003F#32, 0x4A000011#32), (0xFE00003F#32, 0x4A00001D#32), (0xFC00F800#32, 0xC8002000#32), (0xFC00F800#32, 0xE8002000#32)]

/-- The 54 RSP rows of the opcode table. -/
def rspRows : List (Word × Word) := rspRows1 ++ rspRows2 ++ rspRows3

/-- A word lies in a row. -/
def InRow (w : Word) (row : Word × Word) : Prop := w &&& row.1 = row.2

/-! ### The words of an instruction (30_encoding R144 to R149, R153, R154, R157) -/

/-- Every CPU word with primary opcode `op` is this instruction, whatever its other bits hold. -/
def CpuPrimary (op : BitVec 6) (i : Word → Instr) : Prop := ∀ w, fieldOpcode w = op → decodeCpuWord w = .ok (i w)

/-- Every CPU word of the SPECIAL map with this `funct` is this instruction. -/
def CpuSpecial (funct : BitVec 6) (i : Word → Instr) : Prop :=
  ∀ w, fieldOpcode w = 0#6 → fieldFunct w = funct → decodeCpuWord w = .ok (i w)

/-- Every CPU word of the REGIMM map with this `rt` is this instruction. -/
def CpuRegimm (rt : Reg) (i : Word → Instr) : Prop :=
  ∀ w, fieldOpcode w = 0x01#6 → fieldRt w = rt → decodeCpuWord w = .ok (i w)

/-- Every CPU word of the COP0 map with this `rs` is this instruction. -/
def CpuCop0 (rs : Reg) (i : Word → Instr) : Prop :=
  ∀ w, fieldOpcode w = 0x10#6 → fieldRs w = rs → decodeCpuWord w = .ok (i w)

/-- Every RSP word with primary opcode `op` is this instruction. -/
def RspPrimary (op : BitVec 6) (i : Word → Instr) : Prop := ∀ w, fieldOpcode w = op → decodeRspWord w = .ok (i w)

/-- Every RSP word of the SPECIAL map with this `funct` is this instruction. -/
def RspSpecial (funct : BitVec 6) (i : Word → Instr) : Prop :=
  ∀ w, fieldOpcode w = 0#6 → fieldFunct w = funct → decodeRspWord w = .ok (i w)

/-- Every RSP word of the REGIMM map with this `rt` is this instruction. -/
def RspRegimm (rt : Reg) (i : Word → Instr) : Prop :=
  ∀ w, fieldOpcode w = 0x01#6 → fieldRt w = rt → decodeRspWord w = .ok (i w)

/-- Every RSP word with opcode COP2, bit 25 set and this `funct` is this vector instruction of `vd` (bits 10:6), `vs` (bits
15:11), `vt` (bits 20:16) and `e` (bits 24:21). -/
def RspVector (funct : BitVec 6) (i : Reg → Reg → Reg → BitVec 4 → Instr) : Prop :=
  ∀ w : Word, fieldOpcode w = 0x12#6 → w.getLsbD 25 = true → fieldFunct w = funct →
    decodeRspWord w = .ok (i (w.extractLsb' 6 5) (w.extractLsb' 11 5) (w.extractLsb' 16 5) (w.extractLsb' 21 4))

/-- Every RSP word with primary opcode `op` and sub-opcode 0x04 (bits 15:11) is this vector load or store of `vt` (bits
20:16), `base` (bits 25:21) and `offset` (bits 6:0), whatever its element bits hold. -/
def RspQuad (op : BitVec 6) (i : Reg → Reg → BitVec 7 → Instr) : Prop :=
  ∀ w : Word, fieldOpcode w = op → w.extractLsb' 11 5 = 0x04#5 →
    decodeRspWord w = .ok (i (w.extractLsb' 16 5) (w.extractLsb' 21 5) (w.extractLsb' 0 7))

/-- Every RDP command whose leading word `w0` has this opcode, with first trailing word `w1`, is this command. -/
def RdpCommand (op : BitVec 6) (i : Word → Word → Instr) : Prop :=
  ∀ (w0 w1 : Word) (ws : List Word), fieldOpcode w0 = op → decodeRdpCommand w0 (w1 :: ws) = .ok (i w0 w1)

/-! ### Bytes and memory windows -/

/-- The number that bytes spell, most significant first (20_memory R87). -/
def bigEndian (bs : List Byte) : Nat := bs.foldl (fun n b => n * 256 + b.toNat) 0

/-- The register that an access at exactly this physical address reaches: that of REGWIN, unless RDRAM or an RSP window
comes first in the address map (20_memory R82, R100, R102). -/
def registerAt (s : State) (pa : Nat) : Option BusReg :=
  if pa < s.params.rdramSize ∨ (0x04000000 ≤ pa ∧ pa ≤ 0x04001FFF) then none else s.params.busRegAt pa

/-- A physical address that the address map leaves out: past RDRAM, in no RSP window, in no register's word, past the save
buffer and in no ROM window, where the last two are absent without a Cartridge (20_memory R82; log 4). -/
structure UnmappedAt (s : State) (pa : Nat) : Prop where
  rdram : s.params.rdramSize ≤ pa
  windows : pa < 0x04000000 ∨ 0x04001FFF < pa
  registers : ∀ row ∈ s.params.regwin, pa < row.1 ∨ row.1 + 4 ≤ pa
  save : pa < 0x08000000 ∨ 0x08000000 + s.saveSize ≤ pa
  rom : s.cart = none ∨ pa < 0x10000000 ∨ 0x1FBFFFFF < pa

/-- The address map has the numbers of R82 and R100: RDRAM_SIZE and REGWIN are at their defaults (00_scope R6), and the save
window ends below the ROM window. -/
abbrev DefaultMap (s : State) : Prop :=
  s.params.rdramSize = 0x00400000 ∧ s.params.regwin = defaultRegwin ∧ 0x08000000 + s.saveSize ≤ 0x10000000

/-- The addresses that R82 leaves out at the default parameters: 4 MiB up to the DMEM window, the gaps around the three
register windows, the save window from its size on, from 0x1FC00000 on, and without a Cartridge both its windows (20_memory
R82; log 4). -/
def DefaultHole (s : State) (pa : Nat) : Prop :=
  (0x00400000 ≤ pa ∧ pa ≤ 0x03FFFFFF) ∨ (0x04002000 ≤ pa ∧ pa ≤ 0x0403FFFF) ∨ (0x04040014 ≤ pa ∧ pa ≤ 0x0407FFFF)
    ∨ (0x04080004 ≤ pa ∧ pa ≤ 0x040FFFFF) ∨ (0x04100008 ≤ pa ∧ pa ≤ 0x07FFFFFF)
    ∨ (0x08000000 + s.saveSize ≤ pa ∧ pa ≤ 0x0FFFFFFF) ∨ 0x1FC00000 ≤ pa ∨ (s.cart = none ∧ 0x08000000 ≤ pa)

/-- The writable memory that a physical address lies in: RDRAM, DMEM window, IMEM window, save window (20_memory R82). -/
def memoryWindow (s : State) (pa : Nat) : Option Nat :=
  if pa < s.params.rdramSize then some 0
  else if 0x04000000 ≤ pa ∧ pa ≤ 0x04000FFF then some 1
  else if 0x04001000 ≤ pa ∧ pa ≤ 0x04001FFF then some 2
  else if s.params.inRegwin pa then none
  else if 0x08000000 ≤ pa ∧ pa < 0x08000000 + s.saveSize then some 3
  else none

/-- What a store of the low `n` bytes of `v` at physical address `pa` leaves: the bytes of the window that `pa` lies in hold
`v`, most significant first; every other byte of the bus reads as before; nothing else outside the CPU changes (20_memory R83,
R85, R86, R101, R102, R115). -/
structure StoredAt (s t : State) (pa n : Nat) (v : Word) : Prop where
  params : t.params = s.params
  bytes : ∀ a : Word, t.memRead a .byte =
    if pa ≤ physAddr a ∧ physAddr a < pa + n ∧ memoryWindow s pa ≠ none
        ∧ memoryWindow s (physAddr a) = memoryWindow s pa then
      BitVec.ofNat 32 (v.toNat / 256 ^ (n - 1 - (physAddr a - pa)) % 256)
    else s.memRead a .byte
  rsp : t.rsp = { s.rsp with imem := t.rsp.imem, dmem := t.rsp.dmem }
  rdp : t.rdp = s.rdp
  cart : (s.cart = none ∧ t.cart = none) ∨
    ∃ c d, s.cart = some c ∧ t.cart = some d ∧ d = { c with save := d.save }
  bank : t.bank = s.bank
  calls : t.calls = s.calls
  reply : t.reply = s.reply

/-- What DMA into DMEM leaves (44 R380): for every index whose place no later index takes again, the RDRAM byte; every other
byte of DMEM as before. -/
def DmemFilled (s t : State) (dram m n : Nat) : Prop :=
  (∀ i, i < n → (∀ j, i < j → j < n → (m + j) % 4096 ≠ (m + i) % 4096) →
      Store.get t.rsp.dmem ((m + i) % 4096) = s.rdramReadByte (dram + i))
    ∧ ∀ b, (∀ i, i < n → b ≠ (m + i) % 4096) → Store.get t.rsp.dmem b = Store.get s.rsp.dmem b

/-- What DMA out of DMEM leaves (44 R381): the bytes of DMEM at RDRAM offset `dram` on, those outside RDRAM discarded; every
other byte of RDRAM as before. -/
def RdramFilled (s t : State) (dram m n : Nat) : Prop :=
  ∀ a, a < s.params.rdramSize → t.rdramReadByte a =
    if dram ≤ a ∧ a < dram + n then Store.get s.rsp.dmem ((m + (a - dram)) % 4096) else s.rdramReadByte a

/-- The write actions of the register windows (20_memory R100), from `s` to `t`, the CPU's part aside. -/
def RegisterAction (s t : State) (r : BusReg) (v : Word) : Prop :=
  match r with
  | .spMemAddr => t = { s with cpu := t.cpu, rsp := { s.rsp with memAddr := BitVec.ofNat 12 v.toNat } }
  | .spDramAddr => t = { s with cpu := t.cpu, rsp := { s.rsp with dramAddr := BitVec.ofNat 24 v.toNat } }
  | .spRdLen => t = { s with cpu := t.cpu, rsp := { s.rsp with dmem := t.rsp.dmem } }
      ∧ DmemFilled s t s.rsp.dramAddr.toNat s.rsp.memAddr.toNat (v.toNat % 4096 + 1)
  | .spWrLen => t = { s with cpu := t.cpu, rdram := t.rdram }
      ∧ RdramFilled s t s.rsp.dramAddr.toNat s.rsp.memAddr.toNat (v.toNat % 4096 + 1)
  | .spStatus => t = { s with cpu := t.cpu, rsp := { s.rsp with run := t.rsp.run } }
      ∧ (v.getLsbD 0 = true → v.getLsbD 1 = false → t.rsp.run = .running)
      ∧ (v.getLsbD 0 = false → v.getLsbD 1 = true → t.rsp.run = .halted)
      ∧ (v.getLsbD 0 = v.getLsbD 1 → v.getLsbD 2 = true → s.rsp.run = .broke → t.rsp.run = .halted)
      ∧ (v.getLsbD 0 = v.getLsbD 1 → (v.getLsbD 2 = false ∨ s.rsp.run ≠ .broke) → t.rsp.run = s.rsp.run)
  | .spPc => t = { s with cpu := t.cpu, rsp := { s.rsp with
      pc := BitVec.ofNat 12 (v.toNat % 4096 / 4 * 4), delayFlag := false } }
  | .dpcStart => t = { s with cpu := t.cpu, rdp := { s.rdp with
      dpcStart := BitVec.ofNat 24 (v.toNat % 2 ^ 24 / 4 * 4) } }
  | .dpcEnd => t = { s with cpu := t.cpu, rdp := { s.rdp with
      dpcStart := BitVec.ofNat 24 (v.toNat % 2 ^ 24 / 4 * 4)
      queue := s.rdp.queue ++
        (List.range ((v.toNat % 2 ^ 24 / 4 * 4 - s.rdp.dpcStart.toNat + 3) / 4)).map fun k =>
          BitVec.ofNat 32 (bigEndian ((List.range 4).map fun i =>
            s.rdramReadByte (s.rdp.dpcStart.toNat + 4 * k + i))) } }

/-- The second operand's lane for output lane `k` (44 R376). -/
def laneOf (v : Vector Lane 8) (e : BitVec 4) (k : Fin 8) : Lane :=
  v.toList.getD (if 8 ≤ e.toNat then e.toNat - 8 else k) 0#16

/-- The pixel FILL_RECTANGLE paints, in arithmetic (45 R420). -/
def fillPixel (r : RenderState) : Word :=
  if r.colorImage.size = 2#2 then
    BitVec.ofNat 32 (channel (r.fillColor.toNat / 2048 % 32) * 2 ^ 24 + channel (r.fillColor.toNat / 64 % 32) * 2 ^ 16
      + channel (r.fillColor.toNat / 2 % 32) * 2 ^ 8 + r.fillColor.toNat % 2 * 255)
  else r.fillColor
where
  /-- `(c << 3) | (c >> 2)` of a 5-bit channel. -/
  channel (c : Nat) : Nat := c * 8 + c / 4

/-! ### The Cartridge's image (20_memory R113) -/

/-- `rom` is the image in the first magic ordering: as it is, every pair of bytes swapped, or every group of four bytes
reversed, trailing bytes that make no whole group left (20_memory R113). -/
def Normalised (image rom : List Byte) : Prop :=
  rom.length = image.length ∧
    ((image.take 4 = [0x80#8, 0x37#8, 0x12#8, 0x40#8] ∧ rom = image)
    ∨ (image.take 4 = [0x37#8, 0x80#8, 0x40#8, 0x12#8] ∧ ∀ k, k < image.length →
        rom.getD k 0#8 = image.getD (if k / 2 * 2 + 2 ≤ image.length then k / 2 * 2 + (1 - k % 2) else k) 0#8)
    ∨ (image.take 4 = [0x40#8, 0x12#8, 0x37#8, 0x80#8] ∧ ∀ k, k < image.length →
        rom.getD k 0#8 = image.getD (if k / 4 * 4 + 4 ≤ image.length then k / 4 * 4 + (3 - k % 4) else k) 0#8))

/-- What a title is trimmed of: a space or a NUL byte (20_memory R111). -/
abbrev IsPad (b : Byte) : Prop := b = 0x20#8 ∨ b = 0x00#8

/-- `title` is `field` without its leading and trailing padding (20_memory R111). -/
def Trimmed (field title : List Byte) : Prop :=
  (∃ l r, field = l ++ title ++ r ∧ ∀ b ∈ l ++ r, IsPad b)
    ∧ (∀ b, title.head? = some b → ¬IsPad b) ∧ ∀ b, title.getLast? = some b → ¬IsPad b

/-- `ty` is the type of the first entry of the table whose substring occurs in the title, or none (20_memory R118). -/
def FirstMatch (table : List (List Byte × SaveType)) (title : List Byte) (ty : SaveType) : Prop :=
  (∃ before entry after, table = before ++ entry :: after ∧ entry.1 <:+: title
      ∧ (∀ e ∈ before, ¬e.1 <:+: title) ∧ ty = entry.2)
    ∨ ((∀ e ∈ table, ¬e.1 <:+: title) ∧ ty = .none)

/-- The fields of a Cartridge built from `rom` (20_memory R110 (5), (6), R111, R112, R118). -/
structure BuiltFrom (p : Params) (table : List (List Byte × SaveType)) (rom : List Byte) (c : Cartridge) : Prop where
  image : c.rom = rom
  clockRate : c.clockRate = rom.getD 0x04 0#8
  entryPoint : c.entryPoint.toNat = bigEndian ((List.range 4).map fun i => rom.getD (0x08 + i) 0#8)
  crc1 : c.crc1.toNat = bigEndian ((List.range 4).map fun i => rom.getD (0x10 + i) 0#8)
  crc2 : c.crc2.toNat = bigEndian ((List.range 4).map fun i => rom.getD (0x14 + i) 0#8)
  title : Trimmed ((rom.drop 0x20).take 20) c.title
  region : c.region = (p.regionTable.lookup (rom.getD 0x3F 0#8)).getD .unknown
  saveType : FirstMatch table c.title c.saveType
  save : ∀ k, Store.get c.save k = 0#8

/-! ### What a CPU instruction leaves as it was -/

/-- Every byte of the bus reads as before. -/
def SameBytes (s t : State) : Prop := ∀ a : Word, t.memRead a .byte = s.memRead a .byte

/-- Everything outside the CPU is as before. -/
structure SameOutsideCpu (s t : State) : Prop where
  params : t.params = s.params
  rsp : t.rsp = s.rsp
  rdp : t.rdp = s.rdp
  rdram : t.rdram = s.rdram
  bank : t.bank = s.bank
  cart : t.cart = s.cart
  calls : t.calls = s.calls
  reply : t.reply = s.reply
  bytes : SameBytes s t

/-- HI, LO, the linked flag, COP0 (Status, Cause, EPC and every other slot), the interrupt lines and the FPU file are as
before. -/
structure SameSpecial (s t : State) : Prop where
  hi : t.cpu.hi = s.cpu.hi
  lo : t.cpu.lo = s.cpu.lo
  llFlag : t.cpu.llFlag = s.cpu.llFlag
  cop0 : t.cpu.cop0 = s.cpu.cop0
  irq : t.cpu.irq = s.cpu.irq
  fpr : t.cpu.fpr = s.cpu.fpr

/-- Every general register but `rd` is as before, and `rd` holds `v`, unless it is register 0, which reads 0 (10_state
R20). -/
def RegsWith (s t : State) (rd : Reg) (v : DWord) : Prop :=
  t.getX rd = (if rd = 0#5 then 0#64 else v) ∧ ∀ r, r ≠ rd → t.getX r = s.getX r

/-- Every general register is as before. -/
def SameRegs (s t : State) : Prop := ∀ r, t.getX r = s.getX r

/-- Where pc goes after an instruction that is no taken branch (40 R184). -/
def nextPc (s : State) : Word := if s.cpu.delayFlag then s.cpu.pendingTarget else s.cpu.pc + 4#32

/-- The step advanced without a branch (40 R184). -/
structure Advanced (s t : State) : Prop where
  pc : t.cpu.pc = nextPc s
  delayFlag : t.cpu.delayFlag = false
  pendingTarget : t.cpu.pendingTarget = s.cpu.pendingTarget

/-- The step advanced having called `branch(T)` (40 R183, R184): outside a slot the slot comes next and the flag is armed;
in a slot the pending target is overwritten and control goes to it (42 R272). -/
structure Branched (s t : State) (target : Word) : Prop where
  pendingTarget : t.cpu.pendingTarget = target
  pc : t.cpu.pc = if s.cpu.delayFlag then target else s.cpu.pc + 4#32
  delayFlag : t.cpu.delayFlag = !s.cpu.delayFlag

/-- The instruction completes, writes `v` to the general register `rd`, advances, and changes nothing else. -/
def WritesX (i : Instr) (s : State) (rd : Reg) (v : DWord) : Prop :=
  ∃ t, exec i s = .next t ∧ RegsWith s t rd v ∧ SameSpecial s t ∧ Advanced s t ∧ SameOutsideCpu s t

/-- The instruction completes, leaves HI and LO as given, advances, and changes nothing else. -/
def WritesHiLo (i : Instr) (s : State) (hi lo : DWord) : Prop :=
  ∃ t, exec i s = .next t ∧ t.cpu.hi = hi ∧ t.cpu.lo = lo ∧ SameRegs s t ∧ t.cpu.llFlag = s.cpu.llFlag
    ∧ t.cpu.cop0 = s.cpu.cop0 ∧ t.cpu.irq = s.cpu.irq ∧ t.cpu.fpr = s.cpu.fpr ∧ Advanced s t ∧ SameOutsideCpu s t

/-- The instruction completes, branches to `target` if `taken` and else advances, and changes nothing else. -/
def Branches (i : Instr) (s : State) (taken : Prop) (target : Word) : Prop :=
  ∃ t, exec i s = .next t ∧ (taken → Branched s t target) ∧ (¬taken → Advanced s t) ∧ SameRegs s t
    ∧ SameSpecial s t ∧ SameOutsideCpu s t

/-- The same with a link written to `rd`, whether or not the branch is taken (42 R273). -/
def BranchesLinking (i : Instr) (s : State) (taken : Prop) (target : Word) (rd : Reg) : Prop :=
  ∃ t, exec i s = .next t ∧ (taken → Branched s t target) ∧ (¬taken → Advanced s t)
    ∧ RegsWith s t rd (wordResult (s.cpu.pc.toNat + 8)) ∧ SameSpecial s t ∧ SameOutsideCpu s t

/-- Exception entry with cause number `code`, field by field (60 R460, R463): from `s` to `t`. -/
structure EnteredException (s t : State) (code : BitVec 5) : Prop where
  epc : t.getC0 14#5 = if s.cpu.delayFlag then s.cpu.pc - 4#32 else s.cpu.pc
  bd : (t.getC0 13#5).getLsbD 31 = s.cpu.delayFlag
  excCode : (t.getC0 13#5).extractLsb' 2 5 = code
  causeRest : t.getC0 13#5 &&& 0x7FFFFF83#32 = s.getC0 13#5 &&& 0x7FFFFF83#32
  el : (t.getC0 12#5).getLsbD 1 = true
  statusRest : t.getC0 12#5 &&& 0xFFFFFFFD#32 = s.getC0 12#5 &&& 0xFFFFFFFD#32
  slots : ∀ r, r ≠ 12#5 → r ≠ 13#5 → r ≠ 14#5 → t.getC0 r = s.getC0 r
  delayFlag : t.cpu.delayFlag = false
  pc : t.cpu.pc = if (s.getC0 12#5).getLsbD 22 then s.params.vecBoot else s.params.vecNormal
  regs : SameRegs s t
  hi : t.cpu.hi = s.cpu.hi
  lo : t.cpu.lo = s.cpu.lo
  llFlag : t.cpu.llFlag = s.cpu.llFlag
  irq : t.cpu.irq = s.cpu.irq
  fpr : t.cpu.fpr = s.cpu.fpr
  outside : SameOutsideCpu s t

/-- The instruction completes by taking the exception with this cause number. -/
def Raises (i : Instr) (s : State) (code : BitVec 5) : Prop :=
  ∃ t, exec i s = .next t ∧ EnteredException s t code

/-! ### What an RSP instruction leaves as it was -/

/-- Everything outside the RSP is as before (44 R389). -/
structure SameOutsideRsp (s t : State) : Prop where
  params : t.params = s.params
  cpu : t.cpu = s.cpu
  rdp : t.rdp = s.rdp
  rdram : t.rdram = s.rdram
  bank : t.bank = s.bank
  cart : t.cart = s.cart
  calls : t.calls = s.calls
  reply : t.reply = s.reply

/-- IMEM, the run state and the two DMA latches are as before. -/
structure SameRspSide (s t : State) : Prop where
  imem : t.rsp.imem = s.rsp.imem
  run : t.rsp.run = s.rsp.run
  memAddr : t.rsp.memAddr = s.rsp.memAddr
  dramAddr : t.rsp.dramAddr = s.rsp.dramAddr

/-- Every RSP scalar register but `rd` is as before, and `rd` holds `v`, unless it is register 0. -/
def RspRegsWith (s t : State) (rd : Reg) (v : Word) : Prop :=
  t.getR rd = (if rd = 0#5 then 0#32 else v) ∧ ∀ r, r ≠ rd → t.getR r = s.getR r

/-- Every RSP scalar register is as before. -/
def SameRspRegs (s t : State) : Prop := ∀ r, t.getR r = s.getR r

/-- Every vector register is as before. -/
def SameVectors (s t : State) : Prop := ∀ r, t.getV r = s.getV r

/-- Every byte of DMEM is as before. -/
def SameDmem (s t : State) : Prop := t.rsp.dmem = s.rsp.dmem

/-- The RSP advanced without a branch (44 R320, R324). -/
structure RspAdvanced (s t : State) : Prop where
  pc : t.rsp.pc = if s.rsp.delayFlag then s.rsp.pendingTarget else (s.rsp.pc + 4#12) &&& 0xFFC#12
  delayFlag : t.rsp.delayFlag = false
  pendingTarget : t.rsp.pendingTarget = s.rsp.pendingTarget

/-- The RSP advanced having called `rsp_branch(T)` (44 R320, R324). -/
structure RspBranched (s t : State) (target : Local) : Prop where
  pendingTarget : t.rsp.pendingTarget = target
  pc : t.rsp.pc = if s.rsp.delayFlag then target else (s.rsp.pc + 4#12) &&& 0xFFC#12
  delayFlag : t.rsp.delayFlag = !s.rsp.delayFlag

/-- The RSP does nothing but advance (44 R320, R324). -/
def RspOnlyAdvances (r : Result) (s : State) : Prop :=
  ∃ t, r = .next t ∧ SameRspRegs s t ∧ SameVectors s t ∧ SameDmem s t ∧ SameRspSide s t ∧ RspAdvanced s t
    ∧ SameOutsideRsp s t

/-- The RSP instruction completes, writes `v` to the scalar register `rd`, advances, and changes nothing else. -/
def WritesR (i : Instr) (s : State) (rd : Reg) (v : Word) : Prop :=
  ∃ t, exec i s = .next t ∧ RspRegsWith s t rd v ∧ SameVectors s t ∧ SameDmem s t ∧ SameRspSide s t
    ∧ RspAdvanced s t ∧ SameOutsideRsp s t

/-- The RSP instruction completes, writes the lanes `f i` to the vector register `vd`, advances, and changes nothing
else. -/
def WritesV (i : Instr) (s : State) (vd : Reg) (f : Fin 8 → Lane) : Prop :=
  ∃ t, exec i s = .next t ∧ (∀ k : Fin 8, (t.getV vd)[k] = f k) ∧ (∀ r, r ≠ vd → t.getV r = s.getV r)
    ∧ SameRspRegs s t ∧ SameDmem s t ∧ SameRspSide s t ∧ RspAdvanced s t ∧ SameOutsideRsp s t

/-- The RSP instruction completes, branches to `target` if `taken` and else advances, and changes nothing else. -/
def RspBranches (i : Instr) (s : State) (taken : Prop) (target : Local) : Prop :=
  ∃ t, exec i s = .next t ∧ (taken → RspBranched s t target) ∧ (¬taken → RspAdvanced s t) ∧ SameRspRegs s t
    ∧ SameVectors s t ∧ SameDmem s t ∧ SameRspSide s t ∧ SameOutsideRsp s t

/-- The same with a link written to `rd`, whether or not the branch is taken (44 R329). -/
def RspBranchesLinking (i : Instr) (s : State) (taken : Prop) (target : Local) (rd : Reg) : Prop :=
  ∃ t, exec i s = .next t ∧ (taken → RspBranched s t target) ∧ (¬taken → RspAdvanced s t)
    ∧ RspRegsWith s t rd (((s.rsp.pc + 8#12) &&& 0xFFC#12).setWidth 32) ∧ SameVectors s t ∧ SameDmem s t
    ∧ SameRspSide s t ∧ SameOutsideRsp s t

/-- The RSP instruction completes, stores the low `n` bytes of `v` at DMEM address `a` on, wrapping, leaves every other
byte of DMEM as it was, advances, and changes nothing else. -/
def StoresDmem (i : Instr) (s : State) (a n : Nat) (byteAt : Nat → Byte) : Prop :=
  ∃ t, exec i s = .next t ∧ (∀ k, k < n → Store.get t.rsp.dmem ((a + k) % 4096) = byteAt k)
    ∧ (∀ b, (∀ k, k < n → b ≠ (a + k) % 4096) → Store.get t.rsp.dmem b = Store.get s.rsp.dmem b)
    ∧ SameRspRegs s t ∧ SameVectors s t ∧ SameRspSide s t ∧ RspAdvanced s t ∧ SameOutsideRsp s t

/-! ### What an RDP command leaves as it was -/

/-- Everything outside the RDP, and its queue and DPC_START, are as before (45 R434). -/
structure SameOutsideRender (s t : State) : Prop where
  params : t.params = s.params
  cpu : t.cpu = s.cpu
  rsp : t.rsp = s.rsp
  queue : t.rdp.queue = s.rdp.queue
  dpcStart : t.rdp.dpcStart = s.rdp.dpcStart
  bank : t.bank = s.bank
  cart : t.cart = s.cart
  calls : t.calls = s.calls
  reply : t.reply = s.reply

/-- The command completes with this render state, and changes nothing else: no pixel and no RDRAM byte (45 R405). -/
def SetsRender (i : Instr) (s : State) (r : RenderState) : Prop :=
  ∃ t, exec i s = .next t ∧ t.rdp.render = r ∧ t.rdp.fb = s.rdp.fb ∧ t.rdram = s.rdram ∧ SameBytes s t
    ∧ SameOutsideRender s t

/-- The command completes with `color x y` at every pixel of the rectangle `[x0,y0)-[x1,y1)` within the buffer, every
other pixel as it was, and changes nothing else: no RDRAM byte (45 R421, R422). -/
def Paints (i : Instr) (s : State) (x0 y0 x1 y1 : Nat) (color : Nat → Nat → Word) : Prop :=
  ∃ t, exec i s = .next t
    ∧ (∀ x y, x < s.params.fbWidth → y < s.params.fbHeight →
        t.pixel x y = if x0 ≤ x ∧ x < x1 ∧ y0 ≤ y ∧ y < y1 then color x y else s.pixel x y)
    ∧ t.rdp.render = s.rdp.render ∧ t.rdram = s.rdram ∧ SameBytes s t ∧ SameOutsideRender s t

end Sys2Proof.Machine
end

