-- ==== Sys2Proof/Certificates/Slice0/Obligations.lean ====
section
/-! DEFINITION. The statements for the provers, each from numbered rules of spec/. -/

section

open Sys2Proof Sys2Proof.Machine

/-! ### Reset, the step, the invariant -/

/-- `reset()` from any state gives every item of 10_state R54 its value there, by the machine's parameters (log 31), and
leaves the memories, the Cartridge and the parameters as they were (70_reset R500). A machine just constructed stands so
already, its memories zero-filled (R54; log 7); that it has no Cartridge until the host constructs one is the model's
choice (log 4), which no rule states. The numbers of the defaults are those of log 6. The spec's own choices that this
rests on: D24 (log 26). -/
def Obligations.ResetGivesDefaults : Prop :=
  (∀ s : State, ∃ t, runCall .reset s = .next t
    ∧ (∀ r, t.getX r = 0#64) ∧ t.cpu.pc = s.params.resetPc ∧ t.cpu.delayFlag = false ∧ t.cpu.pendingTarget = 0#32
    ∧ t.cpu.hi = 0#64 ∧ t.cpu.lo = 0#64 ∧ t.cpu.llFlag = false ∧ t.cpu.irq = 0#4
    ∧ t.getC0 12#5 = s.params.resetStatus ∧ t.getC0 15#5 = s.params.pridValue ∧ t.getC0 16#5 = s.params.configValue
    ∧ (∀ r, r ≠ 12#5 → r ≠ 15#5 → r ≠ 16#5 → t.getC0 r = 0#32)
    ∧ t.rdram = s.rdram ∧ t.rsp.imem = s.rsp.imem ∧ t.rsp.dmem = s.rsp.dmem ∧ t.cart = s.cart ∧ t.bank = 0
    ∧ (∀ r, t.getR r = 0#32) ∧ t.rsp.pc = 0#12 ∧ t.rsp.delayFlag = false ∧ t.rsp.pendingTarget = 0#12
    ∧ (∀ r, ∀ k : Fin 8, (t.getV r)[k] = 0#16) ∧ t.rsp.run = .halted
    ∧ t.rsp.memAddr = 0#12 ∧ t.rsp.dramAddr = 0#24 ∧ t.rdp.dpcStart = 0#24 ∧ t.rdp.queue = []
    ∧ t.rdp.render = ⟨0#32, 0#32, 0#32, 0#32, 0#24, 0#32, ⟨0#3, 0#2, 1, 0#26⟩, ⟨0#3, 0#2, 1, 0#26⟩,
      ⟨0#12, 0#12, 0#12, 0#12⟩, 0#32⟩
    ∧ (∀ x y, t.pixel x y = 0#32) ∧ t.params = s.params)
    ∧ (∀ p : Params, ∃ t, runCall .reset (State.init p) = .next t ∧ t = { State.init p with reply := t.reply }
      ∧ t.rdram = [] ∧ t.rsp.imem = [] ∧ t.rsp.dmem = [] ∧ t.cart = none)
    ∧ State.reset = State.init Params.default
    ∧ Params.default.resetPc = 0xBFC00000#32 ∧ Params.default.resetStatus = 0x00400000#32
    ∧ Params.default.pridValue = 0x00000B22#32 ∧ Params.default.configValue = 0x7006E463#32

/-- The invariant of 10_state R52 holds right after construction and reset, whatever the parameters are, if they are
admissible (RESET_PC and the vectors aligned, the recognised commands given room for their operands: log 31); the
defaults are admissible. -/
def Obligations.InvAtReset : Prop :=
  (∀ p : Params, p.Ok → (State.init p).Inv) ∧ Params.default.Ok ∧ State.reset.Inv

/-- The invariant of 10_state R52 (register 0, aligned pcs, constant PRId and Config, canonical memories of fixed size,
widths in range, a save buffer of its type's size) is kept by every step, from every state that meets it; no step
changes a parameter (00_scope R6; log 31). -/
def Obligations.StepKeepsInv : Prop :=
  (∀ s t : State, s.Inv → step s = .next t → t.Inv) ∧ ∀ s t : State, step s = .next t → t.params = s.params

/-- Every state has a successor (93_implementation_defined, after U35; 60 R486). -/
def Obligations.StepIsTotal : Prop :=
  ∀ s : State, ∃ t, step s = .next t

/-- A step makes the next call of the schedule, whichever port it is, and runs the decoded instruction. The CPU's word
is `MemRead(pc, 4)` (40 R181; 20_memory R92), the RSP's the big-endian number of four bytes of IMEM (44 R323). CPU: exec
of it, then the poll, then the reply (40 R180). RSP: exec of it (44 R320). RDP: exec of it with its words off the queue,
then the rest of the drain (45 R401). The model's choices: the schedule in State, whose first call the step makes (log
1), a CPU step when no call is scheduled (log 2), the reply (log 3), the poll also after a step that raised (log 16),
and what is exec's and what the step's (log 17). -/
def Obligations.StepRunsDecodedInstruction : Prop :=
  (∀ (s : State) (c : PortCall) (rest : List PortCall), s.calls = c :: rest → step s = runCall c { s with calls := rest })
    ∧ (∀ (s : State) (a : Local), s.fetch = s.memRead s.cpu.pc .word
      ∧ (s.imemRead a).toNat = bigEndian ((List.range 4).map fun k => Store.get s.rsp.imem (a.toNat / 4 * 4 + k)))
    ∧ (∀ (s : State) (i : Instr), s.calls = [] → decodeCpuWord s.fetch = .ok i →
      step s = andThen (exec i s) fun t => .next (t.poll.setReply (.cycles (Config.cycleCost s.fetch))))
    ∧ (∀ (s : State) (i : Instr) (rest : List PortCall), s.calls = .cpuStep :: rest → decodeCpuWord s.fetch = .ok i →
      step s = andThen (exec i { s with calls := rest }) fun t =>
        .next (t.poll.setReply (.cycles (Config.cycleCost s.fetch))))
    ∧ (∀ (s : State) (i : Instr) (rest : List PortCall), s.calls = .rspStep :: rest →
      decodeRspWord (s.imemRead s.rsp.pc) = .ok i →
      step s = andThen (exec i { s with calls := rest }) fun t => .next (t.setReply .done))
    ∧ ∀ (s : State) (i : Instr) (rest : List PortCall) (w0 : Word) (ws queue : List Word),
      s.calls = .processCommands :: rest → s.rdp.queue = w0 :: (ws ++ queue) →
      ws.length = s.params.rdpLen (fieldOpcode w0) → decodeRdpCommand w0 ws = .ok i →
      step s = andThen (exec i (State.setQueue { s with calls := rest } queue)) fun t =>
        andThen (processCommands t) fun u => .next (u.setReply .done)

/-! ### Decoding and encoding -/

/-- Words written out from the spec's encodings decode to the instructions they stand for (40 R190, R209; 41 R244; 42
R274, R279; 43 R300, R304; 44 R377, R385; 45 R410, R421). The spec's own choices that this rests on: D5, D17, D19, D30
and its general-knowledge marks (log 26). -/
def Obligations.DecodedWordsSanity : Prop :=
  decodeCpuWord 0x00221820#32 = .ok (.add 3#5 1#5 2#5) ∧ decodeCpuWord 0x3C021234#32 = .ok (.lui 2#5 0x1234#16)
    ∧ decodeCpuWord 0x80220003#32 = .ok (.lb 2#5 1#5 3#16) ∧ decodeCpuWord 0x10220003#32 = .ok (.beq 1#5 2#5 3#16)
    ∧ decodeCpuWord 0x0C000400#32 = .ok (.jal 0x400#26) ∧ decodeCpuWord 0x40086800#32 = .ok (.mfc0 8#5 13#5)
    ∧ decodeCpuWord 0x42000018#32 = .ok .eret ∧ decodeRspWord 0x4B0208D0#32 = .ok (.vadd 3#5 1#5 2#5 8#4)
    ∧ decodeRspWord 0xC8412001#32 = .ok (.lqv 1#5 2#5 1#7)
    ∧ decodeRdpCommand 0xFC18003F#32 [0x00100000#32] = .ok (.setColorImage 0#3 3#2 64 0x100000#26)
    ∧ decodeRdpCommand 0xD8028028#32 [0#32] = .ok (.fillRectangle 40#12 40#12 0#12 0#12)

/-- Decoding the encoding of a CPU or RSP instruction by its own block gives it back, every operand at every value. -/
def Obligations.RoundTripProcessors : Prop :=
  (∀ i : Instr, i.block = .cpu → ∃ w, encode i = [w] ∧ decodeCpuWord w = .ok i)
    ∧ ∀ i : Instr, i.block = .rsp → ∃ w, encode i = [w] ∧ decodeRspWord w = .ok i

/-- Decoding the encoding of a well-formed RDP command gives it back, and it has the length of the default RDP_LEN (45
R403). The spec's own choices that this rests on: D34 and its general-knowledge marks (log 26). -/
def Obligations.RoundTripRdp : Prop :=
  ∀ i : Instr, i.block = .rdp → i.wellFormed = true →
    ∃ w0 ws, encode i = w0 :: ws ∧ ws.length = Params.default.rdpLen (fieldOpcode w0) ∧ decodeRdpCommand w0 ws = .ok i

/-- The CPU recognises exactly the words of the 60 CPU rows of the opcode table, the RSP exactly those of its 54 rows
(30_encoding R144 to R150, R153, R154). The spec's own choices that this rests on: D6, D7, D21, D28, D29 and its
general-knowledge marks (log 26). -/
def Obligations.RecognisesExactlyTheTable : Prop :=
  (∀ w : Word, (∃ i, decodeCpuWord w = .ok i) ↔ ∃ row ∈ cpuRows, InRow w row)
    ∧ ∀ w : Word, (∃ i, decodeRspWord w = .ok i) ↔ ∃ row ∈ rspRows, InRow w row

/-- Every word that the CPU does not recognise raises reserved-instruction, code 10, and does nothing else (60 R455);
every word that the RSP does not recognise does nothing but advance the pc (30_encoding R155). The same at a step that
fetches such a word: a CPU step enters the exception, after which the poll does nothing, and replies (40 R180, R182); an
RSP step only advances (44 R320). The model's choices: the schedule (logs 1, 2), the reply (log 3), the poll after the
entry (log 16). The spec's own choices that this rests on: D14, D15, D28 and its general-knowledge marks (log 26). -/
def Obligations.UnrecognisedWords : Prop :=
  (∀ (s : State) (w : Word), (∀ i, decodeCpuWord w ≠ .ok i) →
    ∃ t, cpuExecute w s = .next t ∧ EnteredException s t 10#5)
    ∧ (∀ (s : State) (w : Word), (∀ i, decodeRspWord w ≠ .ok i) → RspOnlyAdvances (rspExecute w s) s)
    ∧ (∀ (s : State) (rest : List PortCall), (∀ i, decodeCpuWord s.fetch ≠ .ok i) →
      (s.calls = [] ∧ rest = []) ∨ s.calls = .cpuStep :: rest →
      ∃ t, EnteredException { s with calls := rest } t 10#5 ∧ t.poll = t
        ∧ step s = .next (t.poll.setReply (.cycles (Config.cycleCost s.fetch))))
    ∧ ∀ s : State, (∀ i, decodeRspWord (s.imemRead s.rsp.pc) ≠ .ok i) →
      RspOnlyAdvances (rspStepOnce s) s
      ∧ ∀ rest, s.calls = .rspStep :: rest → ∃ r, RspOnlyAdvances r { s with calls := rest }
        ∧ step s = andThen r fun t => .next (t.setReply .done)

/-! ### CPU arithmetic -/

/-- The overflow conditions: "These are true exactly when the exact signed result lies outside -2^31 to 2^31 - 1"; ADD,
ADDI and SUB raise, with the destination untouched, when theirs holds, and else write their destination (40 R188). The
spec's own choices that this rests on: D14, D15 (log 26). -/
def Obligations.OverflowExactlyOutsideRange : Prop :=
  (∀ a b : Word,
    (addOverflow a b = true ↔ (a.msb = b.msb ∧ (a + b).msb ≠ a.msb))
      ∧ (subOverflow a b = true ↔ (a.msb ≠ b.msb ∧ (a - b).msb ≠ a.msb))
      ∧ (addOverflow a b = true ↔ ¬FitsWord (a.toInt + b.toInt))
      ∧ (subOverflow a b = true ↔ ¬FitsWord (a.toInt - b.toInt)))
    ∧ ∀ (s : State) (rd rs rt : Reg) (imm : BitVec 16),
      (addOverflow (s.getW rs) (s.getW rt) = true → Raises (.add rd rs rt) s 12#5)
      ∧ (addOverflow (s.getW rs) (s.getW rt) = false → ∃ v, WritesX (.add rd rs rt) s rd v)
      ∧ (addOverflow (s.getW rs) (BitVec.ofInt 32 imm.toInt) = true → Raises (.addi rt rs imm) s 12#5)
      ∧ (addOverflow (s.getW rs) (BitVec.ofInt 32 imm.toInt) = false → ∃ v, WritesX (.addi rt rs imm) s rt v)
      ∧ (subOverflow (s.getW rs) (s.getW rt) = true → Raises (.sub rd rs rt) s 12#5)
      ∧ (subOverflow (s.getW rs) (s.getW rt) = false → ∃ v, WritesX (.sub rd rs rt) s rd v)

/-- ADD, ADDI and SUB write the exact result when it fits a signed word; else they raise Overflow, code 12, with the
destination untouched (40 R190, R192, R194; 60 R456). The spec's own choices that this rests on: D14, D15 and its
general-knowledge marks (log 26). -/
def Obligations.TrappingArithmetic : Prop :=
  (CpuSpecial 0x20#6 (fun w => .add (fieldRd w) (fieldRs w) (fieldRt w))
    ∧ CpuSpecial 0x22#6 (fun w => .sub (fieldRd w) (fieldRs w) (fieldRt w))
    ∧ CpuPrimary 0x08#6 (fun w => .addi (fieldRt w) (fieldRs w) (fieldImm w)))
    ∧ ∀ (s : State) (rd rs rt : Reg) (imm : BitVec 16),
    (FitsWord ((s.getW rs).toInt + (s.getW rt).toInt) →
      WritesX (.add rd rs rt) s rd (BitVec.ofInt 64 ((s.getW rs).toInt + (s.getW rt).toInt)))
    ∧ (¬FitsWord ((s.getW rs).toInt + (s.getW rt).toInt) → Raises (.add rd rs rt) s 12#5)
    ∧ (FitsWord ((s.getW rs).toInt - (s.getW rt).toInt) →
      WritesX (.sub rd rs rt) s rd (BitVec.ofInt 64 ((s.getW rs).toInt - (s.getW rt).toInt)))
    ∧ (¬FitsWord ((s.getW rs).toInt - (s.getW rt).toInt) → Raises (.sub rd rs rt) s 12#5)
    ∧ (FitsWord ((s.getW rs).toInt + imm.toInt) →
      WritesX (.addi rt rs imm) s rt (BitVec.ofInt 64 ((s.getW rs).toInt + imm.toInt)))
    ∧ (¬FitsWord ((s.getW rs).toInt + imm.toInt) → Raises (.addi rt rs imm) s 12#5)

/-- ADDU, SUBU and ADDIU wrap modulo 2^32, sign-extend, and never trap (40 R191, R193, R195). The spec's own choices
that this rests on: its general-knowledge marks (log 26). -/
def Obligations.WrappingArithmetic : Prop :=
  (CpuSpecial 0x21#6 (fun w => .addu (fieldRd w) (fieldRs w) (fieldRt w))
    ∧ CpuSpecial 0x23#6 (fun w => .subu (fieldRd w) (fieldRs w) (fieldRt w))
    ∧ CpuPrimary 0x09#6 (fun w => .addiu (fieldRt w) (fieldRs w) (fieldImm w)))
    ∧ ∀ (s : State) (rd rs rt : Reg) (imm : BitVec 16),
    WritesX (.addu rd rs rt) s rd (wordResult ((s.getW rs).toInt + (s.getW rt).toInt))
    ∧ WritesX (.subu rd rs rt) s rd (wordResult ((s.getW rs).toInt - (s.getW rt).toInt))
    ∧ WritesX (.addiu rt rs imm) s rt (wordResult ((s.getW rs).toInt + imm.toInt))

/-- The logical instructions work on all 64 bits, their immediates zero-extended; LUI sign-extends (40 R196 to R199,
R206 to R209). The spec's own choices that this rests on: its general-knowledge marks (log 26). -/
def Obligations.LogicalInstructions : Prop :=
  (CpuSpecial 0x24#6 (fun w => .and (fieldRd w) (fieldRs w) (fieldRt w))
    ∧ CpuSpecial 0x25#6 (fun w => .or (fieldRd w) (fieldRs w) (fieldRt w))
    ∧ CpuSpecial 0x26#6 (fun w => .xor (fieldRd w) (fieldRs w) (fieldRt w))
    ∧ CpuSpecial 0x27#6 (fun w => .nor (fieldRd w) (fieldRs w) (fieldRt w))
    ∧ CpuPrimary 0x0C#6 (fun w => .andi (fieldRt w) (fieldRs w) (fieldImm w))
    ∧ CpuPrimary 0x0D#6 (fun w => .ori (fieldRt w) (fieldRs w) (fieldImm w))
    ∧ CpuPrimary 0x0E#6 (fun w => .xori (fieldRt w) (fieldRs w) (fieldImm w))
    ∧ CpuPrimary 0x0F#6 (fun w => .lui (fieldRt w) (fieldImm w)))
    ∧ ∀ (s : State) (rd rs rt : Reg) (imm : BitVec 16),
    WritesX (.and rd rs rt) s rd (s.getX rs &&& s.getX rt)
    ∧ WritesX (.or rd rs rt) s rd (s.getX rs ||| s.getX rt)
    ∧ WritesX (.xor rd rs rt) s rd (s.getX rs ^^^ s.getX rt)
    ∧ WritesX (.nor rd rs rt) s rd (~~~(s.getX rs ||| s.getX rt))
    ∧ WritesX (.andi rt rs imm) s rt (s.getX rs &&& BitVec.ofNat 64 imm.toNat)
    ∧ WritesX (.ori rt rs imm) s rt (s.getX rs ||| BitVec.ofNat 64 imm.toNat)
    ∧ WritesX (.xori rt rs imm) s rt (s.getX rs ^^^ BitVec.ofNat 64 imm.toNat)
    ∧ WritesX (.lui rt imm) s rt (wordResult (imm.toNat * 65536))

/-- The six shifts work on the low word and sign-extend; a variable count is taken modulo 32 (40 R200 to R205). The
spec's own choices that this rests on: D8 and its general-knowledge marks (log 26). -/
def Obligations.ShiftInstructions : Prop :=
  (CpuSpecial 0x00#6 (fun w => .sll (fieldRd w) (fieldRt w) (fieldShamt w))
    ∧ CpuSpecial 0x02#6 (fun w => .srl (fieldRd w) (fieldRt w) (fieldShamt w))
    ∧ CpuSpecial 0x03#6 (fun w => .sra (fieldRd w) (fieldRt w) (fieldShamt w))
    ∧ CpuSpecial 0x04#6 (fun w => .sllv (fieldRd w) (fieldRt w) (fieldRs w))
    ∧ CpuSpecial 0x06#6 (fun w => .srlv (fieldRd w) (fieldRt w) (fieldRs w))
    ∧ CpuSpecial 0x07#6 (fun w => .srav (fieldRd w) (fieldRt w) (fieldRs w)))
    ∧ ∀ (s : State) (rd rt rs : Reg) (shamt : BitVec 5),
    WritesX (.sll rd rt shamt) s rd (wordResult ((s.getW rt).toNat * 2 ^ shamt.toNat))
    ∧ WritesX (.srl rd rt shamt) s rd (wordResult ((s.getW rt).toNat / 2 ^ shamt.toNat))
    ∧ WritesX (.sra rd rt shamt) s rd (wordResult ((s.getW rt).toInt / 2 ^ shamt.toNat))
    ∧ WritesX (.sllv rd rt rs) s rd (wordResult ((s.getW rt).toNat * 2 ^ ((s.getX rs).toNat % 32)))
    ∧ WritesX (.srlv rd rt rs) s rd (wordResult ((s.getW rt).toNat / 2 ^ ((s.getX rs).toNat % 32)))
    ∧ WritesX (.srav rd rt rs) s rd (wordResult ((s.getW rt).toInt / 2 ^ ((s.getX rs).toNat % 32)))

/-- The comparisons are on 64 bits; SLTIU sign-extends its immediate and compares it as unsigned (40 R210 to R213). The
spec's own choices that this rests on: its general-knowledge marks (log 26). -/
def Obligations.CompareInstructions : Prop :=
  (CpuSpecial 0x2A#6 (fun w => .slt (fieldRd w) (fieldRs w) (fieldRt w))
    ∧ CpuSpecial 0x2B#6 (fun w => .sltu (fieldRd w) (fieldRs w) (fieldRt w))
    ∧ CpuPrimary 0x0A#6 (fun w => .slti (fieldRt w) (fieldRs w) (fieldImm w))
    ∧ CpuPrimary 0x0B#6 (fun w => .sltiu (fieldRt w) (fieldRs w) (fieldImm w)))
    ∧ ∀ (s : State) (rd rs rt : Reg) (imm : BitVec 16),
    WritesX (.slt rd rs rt) s rd (if (s.getX rs).toInt < (s.getX rt).toInt then 1#64 else 0#64)
    ∧ WritesX (.sltu rd rs rt) s rd (if (s.getX rs).toNat < (s.getX rt).toNat then 1#64 else 0#64)
    ∧ WritesX (.slti rt rs imm) s rt (if (s.getX rs).toInt < imm.toInt then 1#64 else 0#64)
    ∧ WritesX (.sltiu rt rs imm) s rt
        (if ((s.getX rs).toNat : Int) < imm.toInt % 2 ^ 64 then 1#64 else 0#64)

/-- MFHI, MFLO, MTHI and MTLO move all 64 bits (40 R220 to R223). The spec's own choices that this rests on: its
general-knowledge marks (log 26). -/
def Obligations.HiLoMoves : Prop :=
  (CpuSpecial 0x10#6 (fun w => .mfhi (fieldRd w))
    ∧ CpuSpecial 0x11#6 (fun w => .mthi (fieldRs w))
    ∧ CpuSpecial 0x12#6 (fun w => .mflo (fieldRd w))
    ∧ CpuSpecial 0x13#6 (fun w => .mtlo (fieldRs w)))
    ∧ ∀ (s : State) (r : Reg),
    WritesX (.mfhi r) s r s.cpu.hi ∧ WritesX (.mflo r) s r s.cpu.lo
    ∧ WritesHiLo (.mthi r) s (s.getX r) s.cpu.lo ∧ WritesHiLo (.mtlo r) s s.cpu.hi (s.getX r)

/-- MULT and MULTU: the exact product, its low word in LO and its high word in HI, each sign-extended (40 R224, R225).
The spec's own choices that this rests on: its general-knowledge marks (log 26). -/
def Obligations.MultiplyIsExact : Prop :=
  (CpuSpecial 0x18#6 (fun w => .mult (fieldRs w) (fieldRt w))
    ∧ CpuSpecial 0x19#6 (fun w => .multu (fieldRs w) (fieldRt w)))
    ∧ ∀ (s : State) (rs rt : Reg),
    WritesHiLo (.mult rs rt) s (wordResult ((s.getW rs).toInt * (s.getW rt).toInt / 2 ^ 32))
        (wordResult ((s.getW rs).toInt * (s.getW rt).toInt))
    ∧ WritesHiLo (.multu rs rt) s (wordResult (((s.getW rs).toNat * (s.getW rt).toNat / 2 ^ 32 : Nat)))
        (wordResult (((s.getW rs).toNat * (s.getW rt).toNat : Nat)))

/-- DIV by a nonzero divisor, the overflowing division aside: the quotient is rounded toward zero, the remainder is
smaller than the divisor and has the dividend's sign or is zero; DIVU floors (40 R226, R227). The spec's own choices
that this rests on: its general-knowledge marks (log 26). -/
def Obligations.DivideTruncates : Prop :=
  (CpuSpecial 0x1A#6 (fun w => .div (fieldRs w) (fieldRt w))
    ∧ CpuSpecial 0x1B#6 (fun w => .divu (fieldRs w) (fieldRt w)))
    ∧ ∀ (s : State) (rs rt : Reg), s.getW rt ≠ 0#32 →
    (¬((s.getW rs).toInt = -2 ^ 31 ∧ (s.getW rt).toInt = -1) →
      ∃ q r : Int, (s.getW rs).toInt = q * (s.getW rt).toInt + r ∧ |r| < |(s.getW rt).toInt|
        ∧ (r = 0 ∨ (0 < r ∧ 0 < (s.getW rs).toInt) ∨ (r < 0 ∧ (s.getW rs).toInt < 0))
        ∧ WritesHiLo (.div rs rt) s (wordResult r) (wordResult q))
    ∧ WritesHiLo (.divu rs rt) s (wordResult ((s.getW rs).toNat % (s.getW rt).toNat : Nat))
        (wordResult ((s.getW rs).toNat / (s.getW rt).toNat : Nat))

/-- The division corners: no exception, and HI and LO as the parameter DIV_CORNER says, at its default those of the real
processor, the model's choice (log 13; 40 R230, R231). The spec's own choices that this rests on: D9 and its
general-knowledge marks (log 26). -/
def Obligations.DivideCorners : Prop :=
  (∀ (s : State) (rs rt : Reg) (c : DivCorner), c = s.params.divCorner →
    (s.getW rt = 0#32 →
      WritesHiLo (.div rs rt) s (c.divZeroHi.eval (s.getW rs)) (c.divZeroLo.eval (s.getW rs))
      ∧ WritesHiLo (.divu rs rt) s (c.divuZeroHi.eval (s.getW rs)) (c.divuZeroLo.eval (s.getW rs)))
    ∧ (s.getW rs = 0x80000000#32 → s.getW rt = 0xFFFFFFFF#32 →
      WritesHiLo (.div rs rt) s (c.overflowHi.eval (s.getW rs)) (c.overflowLo.eval (s.getW rs))))
    ∧ (∀ a : Word, defaultDivCorner.divZeroLo.eval a = (if 0 ≤ a.toInt then -1#64 else 1#64)
      ∧ defaultDivCorner.divZeroHi.eval a = wordResult a.toInt ∧ defaultDivCorner.divuZeroLo.eval a = -1#64
      ∧ defaultDivCorner.divuZeroHi.eval a = wordResult a.toInt
      ∧ defaultDivCorner.overflowLo.eval a = 0xFFFFFFFF80000000#64 ∧ defaultDivCorner.overflowHi.eval a = 0#64)
    ∧ Params.default.divCorner = defaultDivCorner

/-- Every instruction but LWU keeps every register, HI and LO canonical: bits 63:32 all equal to bit 31 (40 R187). The
spec's own choices that this rests on: D8 and its general-knowledge marks (log 26). -/
def Obligations.OnlyLwuBreaksCanonicalRegisters : Prop :=
  ∀ (i : Instr) (s t : State), (∀ rt base off, i ≠ .lwu rt base off) →
    (∀ r, IsCanonical (s.getX r)) → IsCanonical s.cpu.hi → IsCanonical s.cpu.lo → exec i s = .next t →
    (∀ r, IsCanonical (t.getX r)) ∧ IsCanonical t.cpu.hi ∧ IsCanonical t.cpu.lo

/-! ### Memory -/

/-- `MemRead` returns `b0 ++ b1 ++ ...` of the region of the first byte, for every writable memory; an address that the
map leaves out reads 0 and ignores writes, at the default numbers the ranges written out here (20_memory R82 to R87,
R101, R125). Without a Cartridge its two windows are left out (log 4). The spec's own choices that this rests on: D2,
D3, D26, D47 and its general-knowledge marks (log 26). -/
def Obligations.MemReadIsBigEndian : Prop :=
  ∀ (s : State) (a : Word) (n : Access) (v : Word),
    (physAddr a < s.params.rdramSize →
      (s.memRead a n).toNat = bigEndian ((List.range n.size).map fun i => s.rdramReadByte (physAddr a + i)))
    ∧ (s.params.rdramSize ≤ physAddr a → 0x04000000 ≤ physAddr a → physAddr a ≤ 0x04000FFF →
      (s.memRead a n).toNat = bigEndian ((List.range n.size).map fun i =>
        if physAddr a - 0x04000000 + i < 4096 then Store.get s.rsp.dmem (physAddr a - 0x04000000 + i) else 0#8))
    ∧ (s.params.rdramSize ≤ physAddr a → 0x04001000 ≤ physAddr a → physAddr a ≤ 0x04001FFF →
      (s.memRead a n).toNat = bigEndian ((List.range n.size).map fun i =>
        if physAddr a - 0x04001000 + i < 4096 then Store.get s.rsp.imem (physAddr a - 0x04001000 + i) else 0#8))
    ∧ (s.params.rdramSize ≤ physAddr a → s.params.inRegwin (physAddr a) = false → 0x08000000 ≤ physAddr a →
      physAddr a < 0x08000000 + s.saveSize → s.memRead a n = s.saveRead (physAddr a - 0x08000000) n)
    ∧ (UnmappedAt s (physAddr a) → s.memRead a n = 0#32 ∧ s.memWrite a n v = s)
    ∧ (DefaultMap s → DefaultHole s (physAddr a) → s.memRead a n = 0#32 ∧ s.memWrite a n v = s)
    ∧ (DefaultMap s → 0x08000000 ≤ physAddr a → s.params.rdramSize ≤ physAddr a ∧ s.params.inRegwin (physAddr a) = false)
    ∧ (s.params = Params.default → DefaultMap s)

/-- `RdramReadByte` and `RdramWriteByte`, and a bus access that starts in RDRAM, byte by byte with them (20_memory R83).
The spec's own choices that this rests on: D1, D2, D3 (log 26). -/
def Obligations.RdramBytes : Prop :=
  ∀ (s : State) (a b : Nat) (v : Byte),
    (a < s.params.rdramSize → (s.rdramWriteByte a v).rdramReadByte a = v)
    ∧ (b ≠ a → (s.rdramWriteByte a v).rdramReadByte b = s.rdramReadByte b)
    ∧ (¬a < s.params.rdramSize → s.rdramReadByte a = 0#8 ∧ s.rdramWriteByte a v = s)
    ∧ ∀ (addr : Word) (n : Access) (w : Word), physAddr addr < s.params.rdramSize →
      (s.memRead addr n).toNat = bigEndian ((List.range n.size).map fun i => s.rdramReadByte (physAddr addr + i))
      ∧ s.memWrite addr n w = (List.range n.size).foldl (fun t i => t.rdramWriteByte (physAddr addr + i)
        (BitVec.ofNat 8 (w.toNat / 256 ^ (n.size - 1 - i)))) s

/-- The loads: the byte, halfword or word at the effective address, sign- or zero-extended (41 R240 to R249). The spec's
own choices that this rests on: its general-knowledge marks (log 26). -/
def Obligations.LoadInstructions : Prop :=
  (CpuPrimary 0x20#6 (fun w => .lb (fieldRt w) (fieldRs w) (fieldImm w))
    ∧ CpuPrimary 0x24#6 (fun w => .lbu (fieldRt w) (fieldRs w) (fieldImm w))
    ∧ CpuPrimary 0x21#6 (fun w => .lh (fieldRt w) (fieldRs w) (fieldImm w))
    ∧ CpuPrimary 0x25#6 (fun w => .lhu (fieldRt w) (fieldRs w) (fieldImm w))
    ∧ CpuPrimary 0x23#6 (fun w => .lw (fieldRt w) (fieldRs w) (fieldImm w))
    ∧ CpuPrimary 0x27#6 (fun w => .lwu (fieldRt w) (fieldRs w) (fieldImm w)))
    ∧ ∀ (s : State) (rt base : Reg) (off : BitVec 16) (ea : Word),
    ea = BitVec.ofInt 32 ((s.getX base).toNat + off.toInt) →
    WritesX (.lb rt base off) s rt (BitVec.ofInt 64 (((s.memRead ea .byte).toNat : Int).bmod (2 ^ 8)))
    ∧ WritesX (.lbu rt base off) s rt (BitVec.ofNat 64 (s.memRead ea .byte).toNat)
    ∧ WritesX (.lh rt base off) s rt (BitVec.ofInt 64 (((s.memRead ea .half).toNat : Int).bmod (2 ^ 16)))
    ∧ WritesX (.lhu rt base off) s rt (BitVec.ofNat 64 (s.memRead ea .half).toNat)
    ∧ WritesX (.lw rt base off) s rt (BitVec.ofInt 64 (((s.memRead ea .word).toNat : Int).bmod (2 ^ 32)))
    ∧ WritesX (.lwu rt base off) s rt (BitVec.ofNat 64 (s.memRead ea .word).toNat)

/-- The stores, at any address but a word store to a register: the bytes of the window that the address lies in, and
nothing else, change (41 R240, R241, R250 to R252; 20_memory R85, R86, R101, R102). The spec's own choices that this
rests on: D26, D47, D48 and its general-knowledge marks (log 26). -/
def Obligations.StoreInstructions : Prop :=
  (CpuPrimary 0x28#6 (fun w => .sb (fieldRt w) (fieldRs w) (fieldImm w))
    ∧ CpuPrimary 0x29#6 (fun w => .sh (fieldRt w) (fieldRs w) (fieldImm w))
    ∧ CpuPrimary 0x2B#6 (fun w => .sw (fieldRt w) (fieldRs w) (fieldImm w)))
    ∧ ∀ (s : State) (rt base : Reg) (off : BitVec 16) (ea : Word),
    ea = BitVec.ofInt 32 ((s.getX base).toNat + off.toInt) →
    (∃ t, exec (.sb rt base off) s = .next t ∧ StoredAt s t (physAddr ea) 1 (s.getW rt)
      ∧ SameRegs s t ∧ SameSpecial s t ∧ Advanced s t)
    ∧ (∃ t, exec (.sh rt base off) s = .next t ∧ StoredAt s t (physAddr ea) 2 (s.getW rt)
      ∧ SameRegs s t ∧ SameSpecial s t ∧ Advanced s t)
    ∧ (registerAt s (physAddr ea) = none → ∃ t, exec (.sw rt base off) s = .next t
      ∧ StoredAt s t (physAddr ea) 4 (s.getW rt) ∧ SameRegs s t ∧ SameSpecial s t ∧ Advanced s t)

/-- A word store to a register of the windows performs that register's write action (41 R252, 20_memory R100). The
spec's own choices that this rests on: D26 and its general-knowledge marks (log 26). -/
def Obligations.StoreToBusRegister : Prop :=
  ∀ (s : State) (rt base : Reg) (off : BitVec 16) (ea : Word) (r : BusReg),
    ea = BitVec.ofInt 32 ((s.getX base).toNat + off.toInt) → registerAt s (physAddr ea) = some r →
    ∃ t, exec (.sw rt base off) s = .next t ∧ RegisterAction s t r (s.getW rt)
      ∧ SameRegs s t ∧ SameSpecial s t ∧ Advanced s t

/-- The read values of the register windows; only an exactly aligned word access is a register access: a byte or
halfword there, and any access at another address of a register's word, reads 0 and is discarded (20_memory R100, R102).
At the default numbers the registers stand where R100 puts them. The spec's own choices that this rests on: D26, D48 and
its general-knowledge marks (log 26). -/
def Obligations.BusRegisterReads : Prop :=
  (∀ (s : State) (a : Word) (n : Access) (v : Word),
    (registerAt s (physAddr a) = some .spMemAddr → s.memRead a .word = BitVec.ofNat 32 s.rsp.memAddr.toNat)
    ∧ (registerAt s (physAddr a) = some .spDramAddr → s.memRead a .word = BitVec.ofNat 32 s.rsp.dramAddr.toNat)
    ∧ (registerAt s (physAddr a) = some .spRdLen ∨ registerAt s (physAddr a) = some .spWrLen → s.memRead a .word = 0#32)
    ∧ (registerAt s (physAddr a) = some .spStatus →
      ((s.memRead a .word).getLsbD 0 = true ↔ s.rsp.run ≠ .running)
      ∧ ((s.memRead a .word).getLsbD 1 = true ↔ s.rsp.run = .broke) ∧ (s.memRead a .word).toNat < 4)
    ∧ (registerAt s (physAddr a) = some .spPc → s.memRead a .word = BitVec.ofNat 32 s.rsp.pc.toNat)
    ∧ (registerAt s (physAddr a) = some .dpcStart ∨ registerAt s (physAddr a) = some .dpcEnd →
      s.memRead a .word = BitVec.ofNat 32 s.rdp.dpcStart.toNat)
    ∧ (s.params.rdramSize ≤ physAddr a → (physAddr a < 0x04000000 ∨ 0x04001FFF < physAddr a) →
      (∃ row ∈ s.params.regwin, row.1 ≤ physAddr a ∧ physAddr a < row.1 + 4) →
      (n = .word → registerAt s (physAddr a) = none) → s.memRead a n = 0#32 ∧ s.memWrite a n v = s)
    ∧ (DefaultMap s → (0x04040000 ≤ physAddr a ∧ physAddr a ≤ 0x04040013)
        ∨ (0x04080000 ≤ physAddr a ∧ physAddr a ≤ 0x04080003) ∨ (0x04100000 ≤ physAddr a ∧ physAddr a ≤ 0x04100007) →
      (n = .word → physAddr a % 4 ≠ 0) → s.memRead a n = 0#32 ∧ s.memWrite a n v = s))
    ∧ ∀ s : State, DefaultMap s →
      registerAt s 0x04040000 = some .spMemAddr ∧ registerAt s 0x04040004 = some .spDramAddr
      ∧ registerAt s 0x04040008 = some .spRdLen ∧ registerAt s 0x0404000C = some .spWrLen
      ∧ registerAt s 0x04040010 = some .spStatus ∧ registerAt s 0x04080000 = some .spPc
      ∧ registerAt s 0x04100000 = some .dpcStart ∧ registerAt s 0x04100004 = some .dpcEnd
      ∧ ∀ pa, pa ∉ [0x04040000, 0x04040004, 0x04040008, 0x0404000C, 0x04040010, 0x04080000, 0x04100000, 0x04100004] →
        registerAt s pa = none

/-- LL loads the word and sets the linked flag; SC with the flag clear writes nothing and answers 0; SC with the flag
set stores and answers 1, at a register with its write action; SC clears the flag (41 R253, R254). The spec's own
choices that this rests on: D26, D47, D48 and its general-knowledge marks (log 26). -/
def Obligations.LinkedLoadAndStore : Prop :=
  (CpuPrimary 0x30#6 (fun w => .ll (fieldRt w) (fieldRs w) (fieldImm w))
    ∧ CpuPrimary 0x38#6 (fun w => .sc (fieldRt w) (fieldRs w) (fieldImm w)))
    ∧ ∀ (s : State) (rt base : Reg) (off : BitVec 16) (ea : Word),
    ea = BitVec.ofInt 32 ((s.getX base).toNat + off.toInt) →
    (∃ t, exec (.ll rt base off) s = .next t
      ∧ RegsWith s t rt (BitVec.ofInt 64 (((s.memRead ea .word).toNat : Int).bmod (2 ^ 32)))
      ∧ SameSpecial (s.setLl true) t ∧ Advanced s t ∧ SameOutsideCpu s t)
    ∧ (s.cpu.llFlag = false → ∃ t, exec (.sc rt base off) s = .next t ∧ RegsWith s t rt 0#64
      ∧ SameSpecial (s.setLl false) t ∧ Advanced s t ∧ SameOutsideCpu s t)
    ∧ (s.cpu.llFlag = true → registerAt s (physAddr ea) = none → ∃ t, exec (.sc rt base off) s = .next t
      ∧ StoredAt s t (physAddr ea) 4 (s.getW rt) ∧ RegsWith s t rt 1#64
      ∧ SameSpecial (s.setLl false) t ∧ Advanced s t)
    ∧ (∀ r, s.cpu.llFlag = true → registerAt s (physAddr ea) = some r → ∃ t, exec (.sc rt base off) s = .next t
      ∧ RegisterAction s t r (s.getW rt) ∧ RegsWith s t rt 1#64
      ∧ SameSpecial (s.setLl false) t ∧ Advanced s t)

/-- The linked flag: LL sets it, SC clears it, the reset port clears it; no other instruction, no exception entry, no
poll and no other port call but a CPU step writes it, so neither DMA nor an RDP write-back does (10_state R24, 41 R255).
The spec's own choices that this rests on: D20, D24 and its general-knowledge marks (log 26). -/
def Obligations.LinkedFlagRule : Prop :=
  State.reset.cpu.llFlag = false
    ∧ (∀ (s : State) (rt base : Reg) (off : BitVec 16),
      (∃ t, exec (.ll rt base off) s = .next t ∧ t.cpu.llFlag = true)
        ∧ ∃ t, exec (.sc rt base off) s = .next t ∧ t.cpu.llFlag = false)
    ∧ (∀ (i : Instr) (s : State), (∀ rt base off, i ≠ .ll rt base off) → (∀ rt base off, i ≠ .sc rt base off) →
      ∃ t, exec i s = .next t ∧ t.cpu.llFlag = s.cpu.llFlag)
    ∧ (∀ (s : State) (c : ExcCode), (s.enterException c).cpu.llFlag = s.cpu.llFlag ∧ s.poll.cpu.llFlag = s.cpu.llFlag)
    ∧ ∀ (c : PortCall) (s : State), c ≠ .cpuStep →
      ∃ t, runCall c s = .next t ∧ t.cpu.llFlag = (if c = .reset then false else s.cpu.llFlag)

/-! ### The Cartridge and the save buffer -/

/-- A ROM read: banked, both bank index and offset clamped, big-endian; a bus write there changes nothing;
`cart.set_bank(n)` sets the bank register and no bus write does (20_memory R114 to R117). At the default numbers no
earlier region of the map covers the window. The spec's own choices that this rests on: D43 (log 26). -/
def Obligations.CartridgeRom : Prop :=
  (∀ (s : State) (c : Cartridge) (a : Word) (n : Access) (v : Word) (off size eff : Nat),
    s.cart = some c → s.params.rdramSize ≤ physAddr a → s.params.inRegwin (physAddr a) = false →
    0x08000000 + s.saveSize ≤ physAddr a → physAddr a = 0x10000000 + off → physAddr a ≤ 0x1FBFFFFF →
    size = c.rom.length →
    eff = min (if 0x200000 < size then min s.bank ((size + 0x1FFFFF) / 0x200000 - 1) * 0x200000 + off else off)
      (size - n.size) →
    (s.memRead a n).toNat = bigEndian ((List.range n.size).map fun i => c.rom.getD (eff + i) 0#8)
      ∧ s.memWrite a n v = s
      ∧ (s.bank = 0 → off + n.size ≤ min size 0x200000 → eff = off))
    ∧ (∀ (s : State) (pa : Nat), DefaultMap s → 0x10000000 ≤ pa →
      s.params.rdramSize ≤ pa ∧ s.params.inRegwin pa = false ∧ 0x08000000 + s.saveSize ≤ pa)
    ∧ (∀ (s : State) (n : Nat), ∃ t, runCall (.setBank n) s = .next t ∧ t = { s with bank := n, reply := t.reply })
    ∧ ∀ (s : State) (a : Word) (n : Access) (v : Word), (s.memWrite a n v).bank = s.bank

/-- The save buffer: accessors big-endian over it, zero and discarded beyond it, no-ops on a buffer of type none; a bulk
load of exactly its length succeeds and persists byte-identical, any other length changes nothing; the ports do that to
the Cartridge and answer it; the sizes are SAVE_SIZE's (20_memory R118, R120 to R124). The spec's own choices that this
rests on: D42 and its general-knowledge marks (log 26). -/
def Obligations.SaveBuffer : Prop :=
  (∀ (size : Nat) (c fresh : Cartridge) (off : Nat) (n : Access) (v : Word) (bytes : List Byte),
    (c.savePersist size).length = size
    ∧ (c.saveRead size off n).toNat =
      bigEndian ((List.range n.size).map fun i => (c.savePersist size).getD (off + i) 0#8)
    ∧ (∀ k, k < size → (((c.saveWrite size off n v).savePersist size).getD k 0#8).toNat =
        if off ≤ k ∧ k < off + n.size then v.toNat / 256 ^ (n.size - 1 - (k - off)) % 256
        else ((c.savePersist size).getD k 0#8).toNat)
    ∧ (size = 0 → c.saveWrite size off n v = c ∧ c.saveRead size off n = 0#32)
    ∧ (bytes.length = size →
      ∃ d, c.saveLoad size bytes = some d ∧ d.savePersist size = bytes ∧ d = { c with save := d.save })
    ∧ (bytes.length ≠ size → c.saveLoad size bytes = none)
    ∧ ∃ d, fresh.saveLoad size (c.savePersist size) = some d ∧ d.savePersist size = c.savePersist size)
    ∧ (∀ (s : State) (c : Cartridge) (size off : Nat) (n : Access) (v : Word) (bytes : List Byte),
      s.cart = some c → size = s.params.saveSize c.saveType →
      runCall (.saveRead off n) s = .next { s with reply := .value (c.saveRead size off n) }
      ∧ (∃ t, runCall (.saveWrite off n v) s = .next t
        ∧ t = { s with cart := some (c.saveWrite size off n v), reply := t.reply })
      ∧ (∀ d, c.saveLoad size bytes = some d →
        runCall (.saveLoad bytes) s = .next { s with cart := some d, reply := .loaded true })
      ∧ (c.saveLoad size bytes = none → runCall (.saveLoad bytes) s = .next { s with reply := .loaded false })
      ∧ runCall .savePersist s = .next { s with reply := .bytes (c.savePersist size) })
    ∧ (∀ p : Params, p.saveSize .none = 0)
    ∧ Params.default.saveSize .smallEeprom = 512 ∧ Params.default.saveSize .largeEeprom = 2048
    ∧ Params.default.saveSize .sram = 32768 ∧ Params.default.saveSize .flash = 131072

/-- Construction: the length, the three magics with the orderings they undo, the clock-rate byte and the entry point are
checked in this order; a built Cartridge holds the un-swapped image, its header fields, the trimmed title, the region of
the table, the save type of the first entry that matches, and a zero-filled save buffer (20_memory R110 to R113, R118).
"MYSTERY GAME" has save type none in every admissible table (log 11). The port gives the machine a built Cartridge with
bank 0 and reports a failure (log 5). The bounds of the clock byte and of the entry point, and the region table, are the
machine's parameters, with the defaults of log 6. The spec's own choices that this rests on: D40, D41, D42 and its
general-knowledge marks (log 26). -/
def Obligations.CartridgeConstruction : Prop :=
  (∀ (p : Params) (table : List (List Byte × SaveType)) (image : List Byte),
    (image.length < 0x40 → constructCartridge p table image = .error .tooShort)
    ∧ (0x40 ≤ image.length →
      image.take 4 ∉ [[0x80#8, 0x37#8, 0x12#8, 0x40#8], [0x37#8, 0x80#8, 0x40#8, 0x12#8], [0x40#8, 0x12#8, 0x37#8, 0x80#8]] →
      constructCartridge p table image = .error .badMagic)
    ∧ (image.take 4 ∈ [[0x80#8, 0x37#8, 0x12#8, 0x40#8], [0x37#8, 0x80#8, 0x40#8, 0x12#8], [0x40#8, 0x12#8, 0x37#8, 0x80#8]] →
      ∃ rom, Normalised image rom)
    ∧ ∀ (rom : List Byte) (entry : Nat), 0x40 ≤ image.length → Normalised image rom →
      entry = bigEndian ((List.range 4).map fun i => rom.getD (0x08 + i) 0#8) →
      (rom.getD 0x04 0#8 ∈ p.implausibleClocks → constructCartridge p table image = .error .badClock)
      ∧ (rom.getD 0x04 0#8 ∉ p.implausibleClocks → ¬(p.entryFirst.toNat ≤ entry ∧ entry ≤ p.entryLast.toNat) →
        constructCartridge p table image = .error .badEntry)
      ∧ (rom.getD 0x04 0#8 ∉ p.implausibleClocks → p.entryFirst.toNat ≤ entry → entry ≤ p.entryLast.toNat →
        ∃ c, constructCartridge p table image = .ok c ∧ BuiltFrom p table rom c))
    ∧ (∀ (p : Params) (image : List Byte) (c : Cartridge), constructCartridge p saveTitleTable image = .ok c →
      c.title = [0x4D#8, 0x59#8, 0x53#8, 0x54#8, 0x45#8, 0x52#8, 0x59#8, 0x20#8, 0x47#8, 0x41#8, 0x4D#8, 0x45#8] →
      c.saveType = .none)
    ∧ (∀ (s : State) (image : List Byte),
      (∀ c, constructCartridge s.params saveTitleTable image = .ok c →
        runCall (.construct image) s = .next { s with cart := some c, bank := 0, reply := .cartridge none })
      ∧ ∀ e, constructCartridge s.params saveTitleTable image = .error e →
        runCall (.construct image) s = .next { s with reply := .cartridge (some e) })
    ∧ Params.default.implausibleClocks = [0x00#8] ∧ Params.default.entryFirst = 0x80000000#32
    ∧ Params.default.entryLast = 0x807FFFFF#32
    ∧ Params.default.regionTable = [(0x45#8, .usa), (0x4A#8, .japan), (0x50#8, .europe), (0x44#8, .germany),
      (0x46#8, .france), (0x49#8, .italy), (0x53#8, .spain), (0x55#8, .australia)]

/-! ### CPU control -/

/-- `branch(T)` and `advance(in_slot, taken)` (40 R183, R184). The spec's own choices that this rests on: D10 (log 26).
-/
def Obligations.BranchAndAdvance : Prop :=
  ∀ (s : State) (target : Word) (taken : Bool),
    (s.branch target).cpu.pendingTarget = target ∧ (s.branch target).cpu.pc = s.cpu.pc
    ∧ (s.cpu.delayFlag = true → (s.advance taken).cpu.pc = s.cpu.pendingTarget
      ∧ (s.advance taken).cpu.delayFlag = false)
    ∧ (s.cpu.delayFlag = false → (s.advance taken).cpu.pc = s.cpu.pc + 4#32
      ∧ (s.advance taken).cpu.delayFlag = taken)

/-- The conditional branches: the condition on all 64 bits, the target relative to the branch's own successor (42 R270
to R272, R274 to R277, R280, R281). The spec's own choices that this rests on: D5, D10 and its general-knowledge marks
(log 26). -/
def Obligations.ConditionalBranches : Prop :=
  (CpuPrimary 0x04#6 (fun w => .beq (fieldRs w) (fieldRt w) (fieldImm w))
    ∧ CpuPrimary 0x05#6 (fun w => .bne (fieldRs w) (fieldRt w) (fieldImm w))
    ∧ CpuPrimary 0x06#6 (fun w => .blez (fieldRs w) (fieldImm w))
    ∧ CpuPrimary 0x07#6 (fun w => .bgtz (fieldRs w) (fieldImm w))
    ∧ CpuRegimm 0x00#5 (fun w => .bltz (fieldRs w) (fieldImm w))
    ∧ CpuRegimm 0x01#5 (fun w => .bgez (fieldRs w) (fieldImm w))
    ∧ CpuRegimm 0x10#5 (fun w => .bltzal (fieldRs w) (fieldImm w))
    ∧ CpuRegimm 0x11#5 (fun w => .bgezal (fieldRs w) (fieldImm w)))
    ∧ ∀ (s : State) (rs rt : Reg) (off : BitVec 16) (target : Word),
    target = BitVec.ofInt 32 (s.cpu.pc.toNat + 4 + off.toInt * 4) →
    Branches (.beq rs rt off) s (s.getX rs = s.getX rt) target
    ∧ Branches (.bne rs rt off) s (s.getX rs ≠ s.getX rt) target
    ∧ Branches (.blez rs off) s ((s.getX rs).toInt ≤ 0) target
    ∧ Branches (.bgtz rs off) s (0 < (s.getX rs).toInt) target
    ∧ Branches (.bltz rs off) s ((s.getX rs).toInt < 0) target
    ∧ Branches (.bgez rs off) s (0 ≤ (s.getX rs).toInt) target
    ∧ BranchesLinking (.bltzal rs off) s ((s.getX rs).toInt < 0) target 31#5
    ∧ BranchesLinking (.bgezal rs off) s (0 ≤ (s.getX rs).toInt) target 31#5

/-- The jumps always branch; a register target has its low two bits cleared and is read before the link is written (42
R271, R273, R278, R279, R282, R283). The spec's own choices that this rests on: D5, D11 and its general-knowledge marks
(log 26). -/
def Obligations.Jumps : Prop :=
  (CpuPrimary 0x02#6 (fun w => .j (fieldTarget w))
    ∧ CpuPrimary 0x03#6 (fun w => .jal (fieldTarget w))
    ∧ CpuSpecial 0x08#6 (fun w => .jr (fieldRs w))
    ∧ CpuSpecial 0x09#6 (fun w => .jalr (fieldRd w) (fieldRs w)))
    ∧ ∀ (s : State) (rd rs : Reg) (target : BitVec 26) (direct register : Word),
    direct = BitVec.ofNat 32 ((s.cpu.pc.toNat + 4) % 2 ^ 32 / 2 ^ 28 * 2 ^ 28 + target.toNat * 4) →
    register = BitVec.ofNat 32 ((s.getX rs).toNat % 2 ^ 32 / 4 * 4) →
    Branches (.j target) s True direct ∧ BranchesLinking (.jal target) s True direct 31#5
    ∧ Branches (.jr rs) s True register ∧ BranchesLinking (.jalr rd rs) s True register rd

/-! ### CPU system instructions and exceptions -/

/-- MFC0 reads a slot, Cause through its view, sign-extended; MTC0 writes a slot, PRId and Config discarding it (43
R300, R301). The spec's own choices that this rests on: D17 and its general-knowledge marks (log 26). -/
def Obligations.Cop0Moves : Prop :=
  (CpuCop0 0x00#5 (fun w => .mfc0 (fieldRt w) (fieldRd w))
    ∧ CpuCop0 0x04#5 (fun w => .mtc0 (fieldRt w) (fieldRd w)))
    ∧ ∀ (s : State) (rt rd : Reg),
    WritesX (.mfc0 rt rd) s rt (wordResult (s.readC0 rd).toInt)
    ∧ (rd ≠ 13#5 → s.readC0 rd = s.getC0 rd)
    ∧ ∃ t, exec (.mtc0 rt rd) s = .next t
      ∧ (∀ r, t.getC0 r = if r = rd ∧ r ≠ 15#5 ∧ r ≠ 16#5 then s.getW rt else s.getC0 r)
      ∧ SameRegs s t ∧ t.cpu.hi = s.cpu.hi ∧ t.cpu.lo = s.cpu.lo ∧ t.cpu.llFlag = s.cpu.llFlag
      ∧ t.cpu.irq = s.cpu.irq ∧ t.cpu.fpr = s.cpu.fpr ∧ Advanced s t ∧ SameOutsideCpu s t

/-- The read view of Cause: bit 10 says whether any line is pending, every other bit is the stored one; a write's bit 10
is never visible (10_state R35). The spec's own choices that this rests on: D16 and its general-knowledge marks (log
26). -/
def Obligations.CauseReadView : Prop :=
  ∀ (s : State) (v : Word) (k : Nat),
    (s.readC0 13#5).getLsbD k = (if k = 10 then decide (s.cpu.irq ≠ 0#4) else (s.getC0 13#5).getLsbD k)
    ∧ ((s.writeC0 13#5 v).readC0 13#5).getLsbD k = (if k = 10 then decide (s.cpu.irq ≠ 0#4) else v.getLsbD k)

/-- ERET: pc from EPC with the low two bits cleared, EL cleared, the delay flag cleared, no advance, and nothing else;
it is the words with `opcode` 0x10, `rs` 0x10 and `funct` 0x18 (43 R304). The spec's own choices that this rests on: D5,
D19 and its general-knowledge marks (log 26). -/
def Obligations.EretReturns : Prop :=
  (∀ w : Word, fieldOpcode w = 0x10#6 → fieldRs w = 0x10#5 → fieldFunct w = 0x18#6 → decodeCpuWord w = .ok .eret)
    ∧ ∀ s : State, ∃ t, exec .eret s = .next t
      ∧ t.cpu.pc = BitVec.ofNat 32 ((s.getC0 14#5).toNat / 4 * 4) ∧ t.cpu.delayFlag = false
      ∧ t.getC0 12#5 = s.getC0 12#5 &&& 0xFFFFFFFD#32 ∧ (∀ r, r ≠ 12#5 → t.getC0 r = s.getC0 r)
      ∧ SameRegs s t ∧ t.cpu.hi = s.cpu.hi ∧ t.cpu.lo = s.cpu.lo ∧ t.cpu.llFlag = s.cpu.llFlag
      ∧ t.cpu.irq = s.cpu.irq ∧ t.cpu.fpr = s.cpu.fpr ∧ SameOutsideCpu s t

/-- SYSCALL raises Sys, code 8, and BREAK raises Bp, code 9, whatever their code field holds (43 R307, R308). The spec's
own choices that this rests on: D14, D15, D21 and its general-knowledge marks (log 26). -/
def Obligations.SyscallAndBreakRaise : Prop :=
  (∀ w : Word, fieldOpcode w = 0#6 → fieldFunct w = 0x0C#6 → decodeCpuWord w = .ok (.syscall (fieldCode w)))
    ∧ (∀ w : Word, fieldOpcode w = 0#6 → fieldFunct w = 0x0D#6 → decodeCpuWord w = .ok (.brk (fieldCode w)))
    ∧ ∀ (s : State) (code : BitVec 20), Raises (.syscall code) s 8#5 ∧ Raises (.brk code) s 9#5

/-- Exception entry, for every cause: EPC, BD, ExcCode, EL, the delay flag, the vector, and nothing else (60 R460, R461,
R463); the vectors are the machine's parameters, with the defaults of log 6. The spec's own choices that this rests on:
D14, D15 and its general-knowledge marks (log 26). -/
def Obligations.ExceptionEntry : Prop :=
  (∀ (s : State) (c : ExcCode), EnteredException s (s.enterException c) (excNumber c))
    ∧ Params.default.vecNormal = 0x80000180#32 ∧ Params.default.vecBoot = 0xBFC00380#32

/-- Entry then ERET: control is back at the faulting instruction, or at the branch before it for a fault in a slot,
every register as before, EL = 0, every other Status bit as before (43 R304 to R306). The cleared delay flag, the
untouched Status bits and the return of a fault in a slot rest on the spec's own choices D19 (R304, R305) and, at entry,
D15; the slots and bit positions on D12 (log 26). -/
def Obligations.ExceptionRoundTrip : Prop :=
  ∀ (s : State) (c : ExcCode), s.cpu.pc &&& 3#32 = 0#32 →
    ∃ t, exec .eret (s.enterException c) = .next t
      ∧ t.cpu.pc = (if s.cpu.delayFlag then s.cpu.pc - 4#32 else s.cpu.pc)
      ∧ (t.getC0 12#5).getLsbD 1 = false ∧ (∀ k, k ≠ 1 → (t.getC0 12#5).getLsbD k = (s.getC0 12#5).getLsbD k)
      ∧ t.cpu.delayFlag = false ∧ SameRegs s t ∧ t.cpu.hi = s.cpu.hi ∧ t.cpu.lo = s.cpu.lo
      ∧ t.cpu.llFlag = s.cpu.llFlag ∧ SameOutsideCpu s t

/-- The poll takes the interrupt exception, code 0, exactly when a line is pending, IE = 1 and EL = 0; it is the last
action of a CPU step, and after a synchronous exception it does nothing (60 R471). The spec's own choices that this
rests on: D14, D15, D16 (log 26). -/
def Obligations.InterruptPoll : Prop :=
  (∀ s : State, s.cpu.irq ≠ 0#4 → (s.getC0 12#5).getLsbD 0 = true → (s.getC0 12#5).getLsbD 1 = false →
      EnteredException s s.poll 0#5)
    ∧ (∀ s : State, ¬(s.cpu.irq ≠ 0#4 ∧ (s.getC0 12#5).getLsbD 0 = true ∧ (s.getC0 12#5).getLsbD 1 = false) →
      s.poll = s)
    ∧ (∀ (s : State) (c : ExcCode), (s.enterException c).poll = s.enterException c)
    ∧ ∀ s t : State, cpuExecute s.fetch s = .next t → ∃ reply, cpuStep s = .next (t.poll.setReply reply)

/-- `irq_set(line)` and `irq_clear(line)` write one line and change nothing else, whatever they reply; the four lines
are four distinct bits; no other port call but the reset port writes a line: no block drives one (60 R470). -/
def Obligations.InterruptLinePorts : Prop :=
  ((∀ line, ∃ k, k < 4 ∧ irqBit line = 1#4 <<< k) ∧ ∀ a b, a ≠ b → irqBit a &&& irqBit b = 0#4)
    ∧ (∀ (s : State) (line : IrqLine),
    (∃ t, runCall (.irqSet line) s = .next t
      ∧ t = { s with cpu := { s.cpu with irq := t.cpu.irq }, reply := t.reply }
      ∧ (t.cpu.irq &&& irqBit line = irqBit line) ∧ t.cpu.irq &&& ~~~(irqBit line) = s.cpu.irq &&& ~~~(irqBit line))
    ∧ ∃ t, runCall (.irqClear line) s = .next t
      ∧ t = { s with cpu := { s.cpu with irq := t.cpu.irq }, reply := t.reply }
      ∧ (t.cpu.irq &&& irqBit line = 0#4) ∧ t.cpu.irq &&& ~~~(irqBit line) = s.cpu.irq &&& ~~~(irqBit line))
    ∧ ∀ (c : PortCall) (s : State), c ≠ .reset → (∀ line, c ≠ .irqSet line) → (∀ line, c ≠ .irqClear line) →
      ∃ t, runCall c s = .next t ∧ t.cpu.irq = s.cpu.irq

/-- Every instruction completes, and none writes the interrupt lines, the FPU file, the bank register, the ROM, PRId or
Config; register 0 reads 0 after it (10_state R20, R25, R30, R37, R38; 20_memory R115, R116). The spec's own choices
that this rests on: D17, D24, D43 and its general-knowledge marks (log 26). -/
def Obligations.InstructionsLeaveHostState : Prop :=
  ∀ (i : Instr) (s : State), ∃ t, exec i s = .next t ∧ t.cpu.irq = s.cpu.irq ∧ t.cpu.fpr = s.cpu.fpr ∧ t.bank = s.bank
    ∧ t.cart.map (·.rom) = s.cart.map (·.rom) ∧ t.getC0 15#5 = s.getC0 15#5 ∧ t.getC0 16#5 = s.getC0 16#5
    ∧ t.getX 0#5 = 0#64 ∧ t.getR 0#5 = 0#32 ∧ t.calls = s.calls

/-! ### The RSP -/

/-- RSP arithmetic and logic: 32 bits, nothing traps (44 R328, R330 to R337, R346, R347, R350 to R352, R354). The set of
instructions and its numbers are those of 30_encoding R153. The spec's own choices that this rests on: D28 and its
general-knowledge marks (log 26). -/
def Obligations.RspArithmetic : Prop :=
  (RspSpecial 0x20#6 (fun w => .rspAdd (fieldRd w) (fieldRs w) (fieldRt w))
    ∧ RspSpecial 0x21#6 (fun w => .rspAddu (fieldRd w) (fieldRs w) (fieldRt w))
    ∧ RspSpecial 0x22#6 (fun w => .rspSub (fieldRd w) (fieldRs w) (fieldRt w))
    ∧ RspSpecial 0x23#6 (fun w => .rspSubu (fieldRd w) (fieldRs w) (fieldRt w))
    ∧ RspSpecial 0x24#6 (fun w => .rspAnd (fieldRd w) (fieldRs w) (fieldRt w))
    ∧ RspSpecial 0x25#6 (fun w => .rspOr (fieldRd w) (fieldRs w) (fieldRt w))
    ∧ RspSpecial 0x26#6 (fun w => .rspXor (fieldRd w) (fieldRs w) (fieldRt w))
    ∧ RspSpecial 0x27#6 (fun w => .rspNor (fieldRd w) (fieldRs w) (fieldRt w))
    ∧ RspPrimary 0x08#6 (fun w => .rspAddi (fieldRt w) (fieldRs w) (fieldImm w))
    ∧ RspPrimary 0x09#6 (fun w => .rspAddiu (fieldRt w) (fieldRs w) (fieldImm w))
    ∧ RspPrimary 0x0C#6 (fun w => .rspAndi (fieldRt w) (fieldRs w) (fieldImm w))
    ∧ RspPrimary 0x0D#6 (fun w => .rspOri (fieldRt w) (fieldRs w) (fieldImm w))
    ∧ RspPrimary 0x0E#6 (fun w => .rspXori (fieldRt w) (fieldRs w) (fieldImm w))
    ∧ RspPrimary 0x0F#6 (fun w => .rspLui (fieldRt w) (fieldImm w)))
    ∧ ∀ (s : State) (rd rs rt : Reg) (imm : BitVec 16),
    WritesR (.rspAdd rd rs rt) s rd (BitVec.ofInt 32 ((s.getR rs).toInt + (s.getR rt).toInt))
    ∧ WritesR (.rspAddu rd rs rt) s rd (BitVec.ofInt 32 ((s.getR rs).toInt + (s.getR rt).toInt))
    ∧ WritesR (.rspSub rd rs rt) s rd (BitVec.ofInt 32 ((s.getR rs).toInt - (s.getR rt).toInt))
    ∧ WritesR (.rspSubu rd rs rt) s rd (BitVec.ofInt 32 ((s.getR rs).toInt - (s.getR rt).toInt))
    ∧ WritesR (.rspAnd rd rs rt) s rd (s.getR rs &&& s.getR rt)
    ∧ WritesR (.rspOr rd rs rt) s rd (s.getR rs ||| s.getR rt)
    ∧ WritesR (.rspXor rd rs rt) s rd (s.getR rs ^^^ s.getR rt)
    ∧ WritesR (.rspNor rd rs rt) s rd (~~~(s.getR rs ||| s.getR rt))
    ∧ WritesR (.rspAddi rt rs imm) s rt (BitVec.ofInt 32 ((s.getR rs).toInt + imm.toInt))
    ∧ WritesR (.rspAddiu rt rs imm) s rt (BitVec.ofInt 32 ((s.getR rs).toInt + imm.toInt))
    ∧ WritesR (.rspAndi rt rs imm) s rt (s.getR rs &&& BitVec.ofNat 32 imm.toNat)
    ∧ WritesR (.rspOri rt rs imm) s rt (s.getR rs ||| BitVec.ofNat 32 imm.toNat)
    ∧ WritesR (.rspXori rt rs imm) s rt (s.getR rs ^^^ BitVec.ofNat 32 imm.toNat)
    ∧ WritesR (.rspLui rt imm) s rt (BitVec.ofNat 32 (imm.toNat * 65536))

/-- RSP shifts and comparisons on 32 bits (44 R338 to R345, R348, R349). The set of instructions and its numbers are
those of 30_encoding R153. The spec's own choices that this rests on: D28 and its general-knowledge marks (log 26). -/
def Obligations.RspShiftsAndCompares : Prop :=
  (RspSpecial 0x00#6 (fun w => .rspSll (fieldRd w) (fieldRt w) (fieldShamt w))
    ∧ RspSpecial 0x02#6 (fun w => .rspSrl (fieldRd w) (fieldRt w) (fieldShamt w))
    ∧ RspSpecial 0x03#6 (fun w => .rspSra (fieldRd w) (fieldRt w) (fieldShamt w))
    ∧ RspSpecial 0x04#6 (fun w => .rspSllv (fieldRd w) (fieldRt w) (fieldRs w))
    ∧ RspSpecial 0x06#6 (fun w => .rspSrlv (fieldRd w) (fieldRt w) (fieldRs w))
    ∧ RspSpecial 0x07#6 (fun w => .rspSrav (fieldRd w) (fieldRt w) (fieldRs w))
    ∧ RspSpecial 0x2A#6 (fun w => .rspSlt (fieldRd w) (fieldRs w) (fieldRt w))
    ∧ RspSpecial 0x2B#6 (fun w => .rspSltu (fieldRd w) (fieldRs w) (fieldRt w))
    ∧ RspPrimary 0x0A#6 (fun w => .rspSlti (fieldRt w) (fieldRs w) (fieldImm w))
    ∧ RspPrimary 0x0B#6 (fun w => .rspSltiu (fieldRt w) (fieldRs w) (fieldImm w)))
    ∧ ∀ (s : State) (rd rs rt : Reg) (shamt : BitVec 5) (imm : BitVec 16),
    WritesR (.rspSll rd rt shamt) s rd (BitVec.ofNat 32 ((s.getR rt).toNat * 2 ^ shamt.toNat))
    ∧ WritesR (.rspSrl rd rt shamt) s rd (BitVec.ofNat 32 ((s.getR rt).toNat / 2 ^ shamt.toNat))
    ∧ WritesR (.rspSra rd rt shamt) s rd (BitVec.ofInt 32 ((s.getR rt).toInt / 2 ^ shamt.toNat))
    ∧ WritesR (.rspSllv rd rt rs) s rd (BitVec.ofNat 32 ((s.getR rt).toNat * 2 ^ ((s.getR rs).toNat % 32)))
    ∧ WritesR (.rspSrlv rd rt rs) s rd (BitVec.ofNat 32 ((s.getR rt).toNat / 2 ^ ((s.getR rs).toNat % 32)))
    ∧ WritesR (.rspSrav rd rt rs) s rd (BitVec.ofInt 32 ((s.getR rt).toInt / 2 ^ ((s.getR rs).toNat % 32)))
    ∧ WritesR (.rspSlt rd rs rt) s rd (if (s.getR rs).toInt < (s.getR rt).toInt then 1#32 else 0#32)
    ∧ WritesR (.rspSltu rd rs rt) s rd (if (s.getR rs).toNat < (s.getR rt).toNat then 1#32 else 0#32)
    ∧ WritesR (.rspSlti rt rs imm) s rt (if (s.getR rs).toInt < imm.toInt then 1#32 else 0#32)
    ∧ WritesR (.rspSltiu rt rs imm) s rt (if ((s.getR rs).toNat : Int) < imm.toInt % 2 ^ 32 then 1#32 else 0#32)

/-- RSP loads: big-endian from DMEM, each byte's address wrapping at 4 KB (44 R322, R355 to R359). The spec's own
choices that this rests on: D28, D33 and its general-knowledge marks (log 26). -/
def Obligations.RspLoads : Prop :=
  (RspPrimary 0x20#6 (fun w => .rspLb (fieldRt w) (fieldRs w) (fieldImm w))
    ∧ RspPrimary 0x24#6 (fun w => .rspLbu (fieldRt w) (fieldRs w) (fieldImm w))
    ∧ RspPrimary 0x21#6 (fun w => .rspLh (fieldRt w) (fieldRs w) (fieldImm w))
    ∧ RspPrimary 0x25#6 (fun w => .rspLhu (fieldRt w) (fieldRs w) (fieldImm w))
    ∧ RspPrimary 0x23#6 (fun w => .rspLw (fieldRt w) (fieldRs w) (fieldImm w)))
    ∧ ∀ (s : State) (rt base : Reg) (off : BitVec 16) (a : Nat) (byteAt : Nat → Nat),
    a = (((s.getR base).toInt + off.toInt) % 4096).toNat →
    (∀ k, byteAt k = (Store.get s.rsp.dmem ((a + k) % 4096)).toNat) →
    WritesR (.rspLb rt base off) s rt (BitVec.ofInt 32 ((byteAt 0 : Int).bmod (2 ^ 8)))
    ∧ WritesR (.rspLbu rt base off) s rt (BitVec.ofNat 32 (byteAt 0))
    ∧ WritesR (.rspLh rt base off) s rt (BitVec.ofInt 32 ((byteAt 0 * 256 + byteAt 1 : Int).bmod (2 ^ 16)))
    ∧ WritesR (.rspLhu rt base off) s rt (BitVec.ofNat 32 (byteAt 0 * 256 + byteAt 1))
    ∧ WritesR (.rspLw rt base off) s rt
        (BitVec.ofNat 32 (((byteAt 0 * 256 + byteAt 1) * 256 + byteAt 2) * 256 + byteAt 3))

/-- RSP stores: big-endian to DMEM, each byte's address wrapping at 4 KB, every other byte as before (44 R322, R360 to
R362). The spec's own choices that this rests on: D28, D33 and its general-knowledge marks (log 26). -/
def Obligations.RspStores : Prop :=
  (RspPrimary 0x28#6 (fun w => .rspSb (fieldRt w) (fieldRs w) (fieldImm w))
    ∧ RspPrimary 0x29#6 (fun w => .rspSh (fieldRt w) (fieldRs w) (fieldImm w))
    ∧ RspPrimary 0x2B#6 (fun w => .rspSw (fieldRt w) (fieldRs w) (fieldImm w)))
    ∧ ∀ (s : State) (rt base : Reg) (off : BitVec 16) (a : Nat),
    a = (((s.getR base).toInt + off.toInt) % 4096).toNat →
    StoresDmem (.rspSb rt base off) s a 1 (fun _ => BitVec.ofNat 8 (s.getR rt).toNat)
    ∧ StoresDmem (.rspSh rt base off) s a 2 (fun k => BitVec.ofNat 8 ((s.getR rt).toNat / 256 ^ (1 - k)))
    ∧ StoresDmem (.rspSw rt base off) s a 4 (fun k => BitVec.ofNat 8 ((s.getR rt).toNat / 256 ^ (3 - k)))

/-- RSP branches: conditions on 32 bits, 12-bit targets (44 R320, R324, R329, R363 to R370). The spec's own choices that
this rests on: D28 and its general-knowledge marks (log 26). -/
def Obligations.RspBranchInstructions : Prop :=
  (RspPrimary 0x04#6 (fun w => .rspBeq (fieldRs w) (fieldRt w) (fieldImm w))
    ∧ RspPrimary 0x05#6 (fun w => .rspBne (fieldRs w) (fieldRt w) (fieldImm w))
    ∧ RspPrimary 0x06#6 (fun w => .rspBlez (fieldRs w) (fieldImm w))
    ∧ RspPrimary 0x07#6 (fun w => .rspBgtz (fieldRs w) (fieldImm w))
    ∧ RspRegimm 0x00#5 (fun w => .rspBltz (fieldRs w) (fieldImm w))
    ∧ RspRegimm 0x01#5 (fun w => .rspBgez (fieldRs w) (fieldImm w))
    ∧ RspRegimm 0x10#5 (fun w => .rspBltzal (fieldRs w) (fieldImm w))
    ∧ RspRegimm 0x11#5 (fun w => .rspBgezal (fieldRs w) (fieldImm w)))
    ∧ ∀ (s : State) (rs rt : Reg) (off : BitVec 16) (target : Local),
    target = BitVec.ofInt 12 ((s.rsp.pc.toNat + 4 + off.toInt * 4) / 4 * 4) →
    RspBranches (.rspBeq rs rt off) s (s.getR rs = s.getR rt) target
    ∧ RspBranches (.rspBne rs rt off) s (s.getR rs ≠ s.getR rt) target
    ∧ RspBranches (.rspBlez rs off) s ((s.getR rs).toInt ≤ 0) target
    ∧ RspBranches (.rspBgtz rs off) s (0 < (s.getR rs).toInt) target
    ∧ RspBranches (.rspBltz rs off) s ((s.getR rs).toInt < 0) target
    ∧ RspBranches (.rspBgez rs off) s (0 ≤ (s.getR rs).toInt) target
    ∧ RspBranchesLinking (.rspBltzal rs off) s ((s.getR rs).toInt < 0) target 31#5
    ∧ RspBranchesLinking (.rspBgezal rs off) s (0 ≤ (s.getR rs).toInt) target 31#5

/-- RSP jumps: targets within IMEM, a register target read before the link is written (44 R329, R371, R373 to R375). The
spec's own choices that this rests on: D28 and its general-knowledge marks (log 26). -/
def Obligations.RspJumps : Prop :=
  (RspPrimary 0x02#6 (fun w => .rspJ (fieldTarget w))
    ∧ RspPrimary 0x03#6 (fun w => .rspJal (fieldTarget w))
    ∧ RspSpecial 0x08#6 (fun w => .rspJr (fieldRs w))
    ∧ RspSpecial 0x09#6 (fun w => .rspJalr (fieldRd w) (fieldRs w)))
    ∧ ∀ (s : State) (rd rs : Reg) (target : BitVec 26) (direct register : Local),
    direct = BitVec.ofNat 12 (target.toNat * 4) → register = BitVec.ofNat 12 ((s.getR rs).toNat / 4 * 4) →
    RspBranches (.rspJ target) s True direct ∧ RspBranchesLinking (.rspJal target) s True direct 31#5
    ∧ RspBranches (.rspJr rs) s True register ∧ RspBranchesLinking (.rspJalr rd rs) s True register rd

/-- BREAK sets broke and itself retires; kick and halt change the run state alone; the step port runs one instruction in
any run state, which only a BREAK changes; `executeFrame()` runs a burst of at most RSP_BURST_MAX steps, some positive
number (log 9); a burst does nothing unless running, else one step and the rest, and splitting a burst changes nothing
(44 R325 to R327, R353). The spec's own choices that this rests on: D28, D32 and its general-knowledge marks (log 26).
-/
def Obligations.RspRunStates : Prop :=
  RspSpecial 0x0D#6 (fun w => .rspBreak (fieldCode w))
    ∧ (∀ (s : State) (code : BitVec 20), ∃ t, exec (.rspBreak code) s = .next t ∧ t.rsp.run = .broke ∧ SameRspRegs s t
      ∧ SameVectors s t ∧ SameDmem s t ∧ t.rsp.imem = s.rsp.imem ∧ t.rsp.memAddr = s.rsp.memAddr
      ∧ t.rsp.dramAddr = s.rsp.dramAddr ∧ RspAdvanced s t ∧ SameOutsideRsp s t)
    ∧ (∀ s : State, ∃ t u, runCall .kick s = .next t ∧ t = { s with rsp := { s.rsp with run := .running }, reply := t.reply }
      ∧ runCall .halt s = .next u ∧ u = { s with rsp := { s.rsp with run := .halted }, reply := u.reply })
    ∧ (∀ s : State, ∃ t u, rspStepOnce s = .next t ∧ runCall .rspStep s = .next u ∧ u = { t with reply := u.reply })
    ∧ (∀ (i : Instr) (s t : State), i.block = .rsp → (∀ code, i ≠ .rspBreak code) → exec i s = .next t →
      t.rsp.run = s.rsp.run)
    ∧ 0 < Config.rspBurstMax
    ∧ (∀ s : State, ∃ t u, rspBurst Config.rspBurstMax s = .next t ∧ runCall .executeFrame s = .next u
      ∧ u = { t with reply := u.reply })
    ∧ (∀ (s : State) (n : Nat), s.rsp.run ≠ .running → rspBurst n s = .next s)
    ∧ (∀ (s : State) (n : Nat), rspBurst 0 s = .next s ∧ (s.rsp.run = .running →
      rspBurst (n + 1) s = andThen (rspStepOnce s) fun t => rspBurst n t))
    ∧ ∀ (s : State) (m n : Nat), rspBurst (m + n) s = andThen (rspBurst m s) fun t => rspBurst n t

/-- The vector instructions, lane by lane, the second operand's lane broadcast when `e >= 8`; VSAR changes nothing (44
R372, R376 to R379, R382 to R384). The spec's own choices that this rests on: D29, D31 and its general-knowledge marks
(log 26). -/
def Obligations.VectorArithmetic : Prop :=
  (RspVector 0x10#6 .vadd
    ∧ RspVector 0x11#6 .vsub
    ∧ RspVector 0x00#6 .vmulf
    ∧ RspVector 0x04#6 .vmudl
    ∧ RspVector 0x06#6 .vmudn
    ∧ RspVector 0x07#6 .vmudh
    ∧ RspVector 0x1D#6 .vsar)
    ∧ ∀ (s : State) (vd vs vt : Reg) (e : BitVec 4) (a b : Fin 8 → Lane),
    (∀ k, a k = (s.getV vs)[k]) → (∀ k, b k = laneOf (s.getV vt) e k) →
    WritesV (.vadd vd vs vt e) s vd (fun k => BitVec.ofNat 16 ((a k).toNat + (b k).toNat))
    ∧ WritesV (.vsub vd vs vt e) s vd (fun k => BitVec.ofInt 16 ((a k).toInt - (b k).toInt))
    ∧ WritesV (.vmulf vd vs vt e) s vd (fun k => BitVec.ofInt 16 ((a k).toInt * (b k).toInt / 2 ^ 16))
    ∧ WritesV (.vmudl vd vs vt e) s vd (fun k => BitVec.ofNat 16 ((a k).toNat * (b k).toNat / 2 ^ 16))
    ∧ WritesV (.vmudn vd vs vt e) s vd (fun k => BitVec.ofNat 16 ((a k).toNat * (b k).toNat))
    ∧ WritesV (.vmudh vd vs vt e) s vd (fun k => BitVec.ofInt 16 ((a k).toInt * (b k).toInt))
    ∧ RspOnlyAdvances (exec (.vsar vd vs vt e) s) s

/-- LQV and SQV move sixteen bytes, big-endian lanes, wrapping at 4 KB; SQV then LQV restores the lanes (44 R385, R386).
The spec's own choices that this rests on: D30 and its general-knowledge marks (log 26). -/
def Obligations.VectorLoadStore : Prop :=
  (RspQuad 0x32#6 .lqv
    ∧ RspQuad 0x3A#6 .sqv)
    ∧ ∀ (s : State) (vt base : Reg) (off : BitVec 7) (a : Nat),
    a = (((s.getR base).toInt + off.toInt * 16) % 4096).toNat →
    WritesV (.lqv vt base off) s vt (fun k => BitVec.ofNat 16
      ((Store.get s.rsp.dmem ((a + 2 * k) % 4096)).toNat * 256 + (Store.get s.rsp.dmem ((a + 2 * k + 1) % 4096)).toNat))
    ∧ StoresDmem (.sqv vt base off) s a 16 (fun j =>
      BitVec.ofNat 8 (((s.getV vt).toList.getD (j / 2) 0#16).toNat / 256 ^ (1 - j % 2)))
    ∧ ∀ t u : State, exec (.sqv vt base off) s = .next t → exec (.lqv vt base off) t = .next u → SameVectors s u

/-- No RSP instruction touches the CPU, the RDP, RDRAM or the Cartridge, none writes IMEM or starts a DMA, and what one
does depends on the RSP alone (44 R323, R389). -/
def Obligations.RspIsIsolated : Prop :=
  ∀ (i : Instr) (s : State), i.block = .rsp →
    ∃ t, exec i s = .next t ∧ SameOutsideRsp s t ∧ t.rsp.imem = s.rsp.imem ∧ t.rsp.memAddr = s.rsp.memAddr
      ∧ t.rsp.dramAddr = s.rsp.dramAddr ∧ ∀ u : State, u.rsp = s.rsp → ∃ v, exec i u = .next v ∧ v.rsp = t.rsp

/-- The DMA ports, byte by byte, for every length, whatever they reply (44 R380, R381). The spec's own choices that this
rests on: D33 (log 26). -/
def Obligations.DmaPorts : Prop :=
  ∀ (s : State) (dram dmem n : Nat),
    (∃ t, runCall (.dmaToDmem dram dmem n) s = .next t
      ∧ t = { s with rsp := { s.rsp with dmem := t.rsp.dmem }, reply := t.reply } ∧ DmemFilled s t dram dmem n)
    ∧ ∃ t, runCall (.dmaFromDmem dram dmem n) s = .next t
      ∧ t = { s with rdram := t.rdram, reply := t.reply } ∧ RdramFilled s t dram dmem n

/-! ### The RDP -/

/-- The SET commands write their field of the render state and nothing else (45 R405, R410 to R418). The spec's own
choices that this rests on: D34, D35, D36 and its general-knowledge marks (log 26). -/
def Obligations.SetCommands : Prop :=
  (RdpCommand 0x3F#6 (fun w0 w1 => .setColorImage (w0.extractLsb' 21 3) (w0.extractLsb' 19 2) ((w0.extractLsb' 0 10).toNat + 1)
      (w1.extractLsb' 0 26))
    ∧ RdpCommand 0x3D#6 (fun w0 w1 => .setTextureImage (w0.extractLsb' 21 3) (w0.extractLsb' 19 2) ((w0.extractLsb' 0 10).toNat + 1)
      (w1.extractLsb' 0 26))
    ∧ RdpCommand 0x37#6 (fun _ w1 => .setFillColor w1)
    ∧ RdpCommand 0x38#6 (fun _ w1 => .setFogColor w1)
    ∧ RdpCommand 0x39#6 (fun _ w1 => .setBlendColor w1)
    ∧ RdpCommand 0x3B#6 (fun _ w1 => .setEnvColor w1)
    ∧ RdpCommand 0x3C#6 (fun w0 w1 => .setCombineMode (w0.extractLsb' 0 24) w1)
    ∧ RdpCommand 0x2D#6 (fun w0 w1 => .setScissor (w0.extractLsb' 12 12) (w0.extractLsb' 0 12) (w1.extractLsb' 12 12)
      (w1.extractLsb' 0 12))
    ∧ RdpCommand 0x2F#6 (fun _ w1 => .setOtherModes w1))
    ∧ ∀ (s : State) (format : BitVec 3) (size : BitVec 2) (width : Nat) (addr : BitVec 26) (w : Word) (c0 : BitVec 24)
    (xh yh xl yl : BitVec 12),
    SetsRender (.setColorImage format size width addr) s { s.rdp.render with colorImage := ⟨format, size, width, addr⟩ }
    ∧ SetsRender (.setTextureImage format size width addr) s { s.rdp.render with texImage := ⟨format, size, width, addr⟩ }
    ∧ SetsRender (.setFillColor w) s { s.rdp.render with fillColor := w }
    ∧ SetsRender (.setFogColor w) s { s.rdp.render with fogColor := w }
    ∧ SetsRender (.setBlendColor w) s { s.rdp.render with blendColor := w }
    ∧ SetsRender (.setEnvColor w) s { s.rdp.render with envColor := w }
    ∧ SetsRender (.setCombineMode c0 w) s { s.rdp.render with combine0 := c0, combine1 := w }
    ∧ SetsRender (.setScissor xh yh xl yl) s { s.rdp.render with scissor := ⟨xh, yh, xl, yl⟩ }
    ∧ SetsRender (.setOtherModes w) s { s.rdp.render with renderMode := w }

/-- FILL_RECTANGLE puts the fill colour, and TEXTURE_RECTANGLE puts TEX_SAMPLE of its coordinates (whatever colour that
is, log 10), at every pixel of the half-open rectangle within the buffer; no other pixel and no RDRAM byte changes (45
R406, R420 to R423, R431). The framebuffer port answers the pixels, FB_WIDTH, FB_HEIGHT and the format RGBA8888 and
changes nothing (R430). The spec's own choices that this rests on: D34, D36, D39 and its general-knowledge marks (log
26). -/
def Obligations.RectanglesPaint : Prop :=
  (RdpCommand 0x36#6 (fun w0 w1 => .fillRectangle (w0.extractLsb' 12 12) (w0.extractLsb' 0 12) (w1.extractLsb' 12 12)
      (w1.extractLsb' 0 12))
    ∧ ∀ (w0 w1 w2 w3 : Word) (ws : List Word), fieldOpcode w0 = 0x24#6 →
      decodeRdpCommand w0 (w1 :: w2 :: w3 :: ws) = .ok (.textureRectangle (w0.extractLsb' 12 12) (w0.extractLsb' 0 12)
        (w1.extractLsb' 24 3) (w1.extractLsb' 12 12) (w1.extractLsb' 0 12) (w2.extractLsb' 16 16) (w2.extractLsb' 0 16)
        (w3.extractLsb' 16 16) (w3.extractLsb' 0 16)))
    ∧ (∀ (s : State) (xl yl : BitVec 12) (tile : BitVec 3) (xh yh : BitVec 12) (sc tc dsdx dtdy : BitVec 16),
    Paints (.fillRectangle xl yl xh yh) s (xh.toNat / 4) (yh.toNat / 4) (xl.toNat / 4) (yl.toNat / 4)
      (fun _ _ => fillPixel s.rdp.render)
    ∧ Paints (.textureRectangle xl yl tile xh yh sc tc dsdx dtdy) s
      (xh.toNat / 4) (yh.toNat / 4) (xl.toNat / 4) (yl.toNat / 4)
      (fun x y => Config.texSample s.rdp.render tile (sc.toInt * 32 + (x - xh.toNat / 4 : Int) * dsdx.toInt)
        (tc.toInt * 32 + (y - yh.toNat / 4 : Int) * dtdy.toInt)))
    ∧ (∀ s : State, ∃ px, runCall .readFrame s =
        .next { s with reply := .frame px s.params.fbWidth s.params.fbHeight .rgba8888 }
      ∧ ∀ x y, x < s.params.fbWidth → y < s.params.fbHeight → Store.get px (y * s.params.fbWidth + x) = s.pixel x y)
    ∧ Params.default.fbWidth = 320 ∧ Params.default.fbHeight = 240

/-- SYNC_FULL: byte `o` of RDRAM from the colour-image address on is byte `o % 4` of pixel `o / 4`, for the whole
framebuffer; every other byte of RDRAM, and all else, as before (45 R424). The spec's own choices that this rests on:
D34, D38 and its general-knowledge marks (log 26). -/
def Obligations.SyncFullWritesFrame : Prop :=
  RdpCommand 0x29#6 (fun _ _ => .syncFull)
    ∧ ∀ (s : State) (base width height : Nat), s.Inv → base = s.rdp.render.colorImage.addr.toNat →
    width = s.params.fbWidth → height = s.params.fbHeight →
    ∃ t, exec .syncFull s = .next t ∧ t = { s with rdram := t.rdram }
      ∧ ∀ a, a < s.params.rdramSize → (t.rdramReadByte a).toNat =
        if base ≤ a ∧ a < base + width * height * 4 then
          (s.pixel ((a - base) / 4 % width) ((a - base) / 4 / width)).toNat / 256 ^ (3 - (a - base) % 4) % 256
        else (s.rdramReadByte a).toNat

/-- `enqueue(word)` puts the word at the back of the queue and executes nothing (45 R400). `processCommands()` drains
the entire queue, completes, and touches neither the CPU nor the RSP; a command cut off by the end of the queue is
dropped, which the spec marks as its own choice (45 R401, R402, R434). The spec's own choices that this rests on: D34,
D37 (log 26). -/
def Obligations.DrainEmptiesQueue : Prop :=
  (∀ (s : State) (w : Word), ∃ t, runCall (.enqueue w) s = .next t
      ∧ t = { s with rdp := { s.rdp with queue := s.rdp.queue ++ [w] }, reply := t.reply })
    ∧ (∀ s : State, ∃ t, processCommands s = .next t ∧ t.rdp.queue = [] ∧ t.cpu = s.cpu ∧ t.rsp = s.rsp
      ∧ t.rdp.dpcStart = s.rdp.dpcStart ∧ t.bank = s.bank ∧ t.cart = s.cart ∧ t.calls = s.calls)
    ∧ (∀ s : State, ∃ t u, processCommands s = .next t ∧ runCall .processCommands s = .next u
      ∧ u = { t with reply := u.reply })
    ∧ ∀ (s : State) (w0 : Word) (ws : List Word), ws.length < s.params.rdpLen (fieldOpcode w0) →
      processCommands (s.setQueue (w0 :: ws)) = .next (s.setQueue [])

/-- The drain, command by command, each of the length RDP_LEN gives it: a recognised command executes with its words off
the queue; an unknown opcode is skipped by length and changes nothing (30_encoding R157; 45 R401, R403, R404). The
lengths are the machine's parameters, with the defaults of log 6. The spec's own choices that this rests on: D34 and its
general-knowledge marks (log 26). -/
def Obligations.DrainByCommand : Prop :=
  (∀ (s : State) (w0 : Word) (ws rest : List Word), ws.length = s.params.rdpLen (fieldOpcode w0) →
    (fieldOpcode w0 ∈ knownRdpOpcodes → 1 ≤ ws.length → (fieldOpcode w0 = 0x24#6 → 3 ≤ ws.length) →
      ∃ i, decodeRdpCommand w0 ws = .ok i ∧ processCommands (s.setQueue (w0 :: (ws ++ rest))) =
        andThen (exec i (s.setQueue rest)) fun t => processCommands t)
    ∧ (fieldOpcode w0 ∉ knownRdpOpcodes →
      processCommands (s.setQueue (w0 :: (ws ++ rest))) = processCommands (s.setQueue rest)))
    ∧ ∀ op : BitVec 6, Params.default.rdpLen op =
      if op = 0x08#6 then 7 else if op = 0x09#6 then 11 else if op = 0x0A#6 ∨ op = 0x0C#6 then 23
      else if op = 0x0B#6 ∨ op = 0x0D#6 then 27 else if op = 0x0E#6 then 39 else if op = 0x0F#6 then 43
      else if op = 0x24#6 ∨ op = 0x25#6 then 3 else 1

end
end

