-- ==== Sys2Proof/Laws/State.lean ====
section
/-! SUPPORT. One lemma per field per update, each true by unfolding, so that no proof unfolds a record update. -/

namespace Sys2Proof.Machine

/-! #### setX -/

@[simp] theorem State.setX_rsp (s : State) (r : Reg) (v : DWord) : (s.setX r v).rsp = s.rsp := rfl
@[simp] theorem State.setX_rdp (s : State) (r : Reg) (v : DWord) : (s.setX r v).rdp = s.rdp := rfl
@[simp] theorem State.setX_rdram (s : State) (r : Reg) (v : DWord) : (s.setX r v).rdram = s.rdram := rfl
@[simp] theorem State.setX_params (s : State) (r : Reg) (v : DWord) : (s.setX r v).params = s.params := rfl
@[simp] theorem State.setX_bank (s : State) (r : Reg) (v : DWord) : (s.setX r v).bank = s.bank := rfl
@[simp] theorem State.setX_cart (s : State) (r : Reg) (v : DWord) : (s.setX r v).cart = s.cart := rfl
@[simp] theorem State.setX_calls (s : State) (r : Reg) (v : DWord) : (s.setX r v).calls = s.calls := rfl
@[simp] theorem State.setX_reply (s : State) (r : Reg) (v : DWord) : (s.setX r v).reply = s.reply := rfl
@[simp] theorem State.setX_cpu_x (s : State) (r : Reg) (v : DWord) :
    (s.setX r v).cpu.x = regWrite s.cpu.x r v := rfl
@[simp] theorem State.setX_cpu_pc (s : State) (r : Reg) (v : DWord) : (s.setX r v).cpu.pc = s.cpu.pc := rfl
@[simp] theorem State.setX_cpu_delayFlag (s : State) (r : Reg) (v : DWord) : (s.setX r v).cpu.delayFlag = s.cpu.delayFlag := rfl
@[simp] theorem State.setX_cpu_pendingTarget (s : State) (r : Reg) (v : DWord) : (s.setX r v).cpu.pendingTarget = s.cpu.pendingTarget := rfl
@[simp] theorem State.setX_cpu_hi (s : State) (r : Reg) (v : DWord) : (s.setX r v).cpu.hi = s.cpu.hi := rfl
@[simp] theorem State.setX_cpu_lo (s : State) (r : Reg) (v : DWord) : (s.setX r v).cpu.lo = s.cpu.lo := rfl
@[simp] theorem State.setX_cpu_llFlag (s : State) (r : Reg) (v : DWord) : (s.setX r v).cpu.llFlag = s.cpu.llFlag := rfl
@[simp] theorem State.setX_cpu_irq (s : State) (r : Reg) (v : DWord) : (s.setX r v).cpu.irq = s.cpu.irq := rfl
@[simp] theorem State.setX_cpu_cop0 (s : State) (r : Reg) (v : DWord) : (s.setX r v).cpu.cop0 = s.cpu.cop0 := rfl
@[simp] theorem State.setX_cpu_fpr (s : State) (r : Reg) (v : DWord) : (s.setX r v).cpu.fpr = s.cpu.fpr := rfl

/-! #### setW -/

@[simp] theorem State.setW_rsp (s : State) (r : Reg) (v : Word) : (s.setW r v).rsp = s.rsp := rfl
@[simp] theorem State.setW_rdp (s : State) (r : Reg) (v : Word) : (s.setW r v).rdp = s.rdp := rfl
@[simp] theorem State.setW_rdram (s : State) (r : Reg) (v : Word) : (s.setW r v).rdram = s.rdram := rfl
@[simp] theorem State.setW_params (s : State) (r : Reg) (v : Word) : (s.setW r v).params = s.params := rfl
@[simp] theorem State.setW_bank (s : State) (r : Reg) (v : Word) : (s.setW r v).bank = s.bank := rfl
@[simp] theorem State.setW_cart (s : State) (r : Reg) (v : Word) : (s.setW r v).cart = s.cart := rfl
@[simp] theorem State.setW_calls (s : State) (r : Reg) (v : Word) : (s.setW r v).calls = s.calls := rfl
@[simp] theorem State.setW_reply (s : State) (r : Reg) (v : Word) : (s.setW r v).reply = s.reply := rfl
@[simp] theorem State.setW_cpu_x (s : State) (r : Reg) (v : Word) :
    (s.setW r v).cpu.x = regWrite s.cpu.x r (v.signExtend 64) := rfl
@[simp] theorem State.setW_cpu_pc (s : State) (r : Reg) (v : Word) : (s.setW r v).cpu.pc = s.cpu.pc := rfl
@[simp] theorem State.setW_cpu_delayFlag (s : State) (r : Reg) (v : Word) : (s.setW r v).cpu.delayFlag = s.cpu.delayFlag := rfl
@[simp] theorem State.setW_cpu_pendingTarget (s : State) (r : Reg) (v : Word) : (s.setW r v).cpu.pendingTarget = s.cpu.pendingTarget := rfl
@[simp] theorem State.setW_cpu_hi (s : State) (r : Reg) (v : Word) : (s.setW r v).cpu.hi = s.cpu.hi := rfl
@[simp] theorem State.setW_cpu_lo (s : State) (r : Reg) (v : Word) : (s.setW r v).cpu.lo = s.cpu.lo := rfl
@[simp] theorem State.setW_cpu_llFlag (s : State) (r : Reg) (v : Word) : (s.setW r v).cpu.llFlag = s.cpu.llFlag := rfl
@[simp] theorem State.setW_cpu_irq (s : State) (r : Reg) (v : Word) : (s.setW r v).cpu.irq = s.cpu.irq := rfl
@[simp] theorem State.setW_cpu_cop0 (s : State) (r : Reg) (v : Word) : (s.setW r v).cpu.cop0 = s.cpu.cop0 := rfl
@[simp] theorem State.setW_cpu_fpr (s : State) (r : Reg) (v : Word) : (s.setW r v).cpu.fpr = s.cpu.fpr := rfl

/-! #### setHi -/

@[simp] theorem State.setHi_rsp (s : State) (v : DWord) : (s.setHi v).rsp = s.rsp := rfl
@[simp] theorem State.setHi_rdp (s : State) (v : DWord) : (s.setHi v).rdp = s.rdp := rfl
@[simp] theorem State.setHi_rdram (s : State) (v : DWord) : (s.setHi v).rdram = s.rdram := rfl
@[simp] theorem State.setHi_params (s : State) (v : DWord) : (s.setHi v).params = s.params := rfl
@[simp] theorem State.setHi_bank (s : State) (v : DWord) : (s.setHi v).bank = s.bank := rfl
@[simp] theorem State.setHi_cart (s : State) (v : DWord) : (s.setHi v).cart = s.cart := rfl
@[simp] theorem State.setHi_calls (s : State) (v : DWord) : (s.setHi v).calls = s.calls := rfl
@[simp] theorem State.setHi_reply (s : State) (v : DWord) : (s.setHi v).reply = s.reply := rfl
@[simp] theorem State.setHi_cpu_x (s : State) (v : DWord) : (s.setHi v).cpu.x = s.cpu.x := rfl
@[simp] theorem State.setHi_cpu_pc (s : State) (v : DWord) : (s.setHi v).cpu.pc = s.cpu.pc := rfl
@[simp] theorem State.setHi_cpu_delayFlag (s : State) (v : DWord) : (s.setHi v).cpu.delayFlag = s.cpu.delayFlag := rfl
@[simp] theorem State.setHi_cpu_pendingTarget (s : State) (v : DWord) : (s.setHi v).cpu.pendingTarget = s.cpu.pendingTarget := rfl
@[simp] theorem State.setHi_cpu_hi (s : State) (v : DWord) :
    (s.setHi v).cpu.hi = v := rfl
@[simp] theorem State.setHi_cpu_lo (s : State) (v : DWord) : (s.setHi v).cpu.lo = s.cpu.lo := rfl
@[simp] theorem State.setHi_cpu_llFlag (s : State) (v : DWord) : (s.setHi v).cpu.llFlag = s.cpu.llFlag := rfl
@[simp] theorem State.setHi_cpu_irq (s : State) (v : DWord) : (s.setHi v).cpu.irq = s.cpu.irq := rfl
@[simp] theorem State.setHi_cpu_cop0 (s : State) (v : DWord) : (s.setHi v).cpu.cop0 = s.cpu.cop0 := rfl
@[simp] theorem State.setHi_cpu_fpr (s : State) (v : DWord) : (s.setHi v).cpu.fpr = s.cpu.fpr := rfl

/-! #### setLo -/

@[simp] theorem State.setLo_rsp (s : State) (v : DWord) : (s.setLo v).rsp = s.rsp := rfl
@[simp] theorem State.setLo_rdp (s : State) (v : DWord) : (s.setLo v).rdp = s.rdp := rfl
@[simp] theorem State.setLo_rdram (s : State) (v : DWord) : (s.setLo v).rdram = s.rdram := rfl
@[simp] theorem State.setLo_params (s : State) (v : DWord) : (s.setLo v).params = s.params := rfl
@[simp] theorem State.setLo_bank (s : State) (v : DWord) : (s.setLo v).bank = s.bank := rfl
@[simp] theorem State.setLo_cart (s : State) (v : DWord) : (s.setLo v).cart = s.cart := rfl
@[simp] theorem State.setLo_calls (s : State) (v : DWord) : (s.setLo v).calls = s.calls := rfl
@[simp] theorem State.setLo_reply (s : State) (v : DWord) : (s.setLo v).reply = s.reply := rfl
@[simp] theorem State.setLo_cpu_x (s : State) (v : DWord) : (s.setLo v).cpu.x = s.cpu.x := rfl
@[simp] theorem State.setLo_cpu_pc (s : State) (v : DWord) : (s.setLo v).cpu.pc = s.cpu.pc := rfl
@[simp] theorem State.setLo_cpu_delayFlag (s : State) (v : DWord) : (s.setLo v).cpu.delayFlag = s.cpu.delayFlag := rfl
@[simp] theorem State.setLo_cpu_pendingTarget (s : State) (v : DWord) : (s.setLo v).cpu.pendingTarget = s.cpu.pendingTarget := rfl
@[simp] theorem State.setLo_cpu_hi (s : State) (v : DWord) : (s.setLo v).cpu.hi = s.cpu.hi := rfl
@[simp] theorem State.setLo_cpu_lo (s : State) (v : DWord) :
    (s.setLo v).cpu.lo = v := rfl
@[simp] theorem State.setLo_cpu_llFlag (s : State) (v : DWord) : (s.setLo v).cpu.llFlag = s.cpu.llFlag := rfl
@[simp] theorem State.setLo_cpu_irq (s : State) (v : DWord) : (s.setLo v).cpu.irq = s.cpu.irq := rfl
@[simp] theorem State.setLo_cpu_cop0 (s : State) (v : DWord) : (s.setLo v).cpu.cop0 = s.cpu.cop0 := rfl
@[simp] theorem State.setLo_cpu_fpr (s : State) (v : DWord) : (s.setLo v).cpu.fpr = s.cpu.fpr := rfl

/-! #### setProduct -/

@[simp] theorem State.setProduct_rsp (s : State) (p : DWord) : (s.setProduct p).rsp = s.rsp := rfl
@[simp] theorem State.setProduct_rdp (s : State) (p : DWord) : (s.setProduct p).rdp = s.rdp := rfl
@[simp] theorem State.setProduct_rdram (s : State) (p : DWord) : (s.setProduct p).rdram = s.rdram := rfl
@[simp] theorem State.setProduct_params (s : State) (p : DWord) : (s.setProduct p).params = s.params := rfl
@[simp] theorem State.setProduct_bank (s : State) (p : DWord) : (s.setProduct p).bank = s.bank := rfl
@[simp] theorem State.setProduct_cart (s : State) (p : DWord) : (s.setProduct p).cart = s.cart := rfl
@[simp] theorem State.setProduct_calls (s : State) (p : DWord) : (s.setProduct p).calls = s.calls := rfl
@[simp] theorem State.setProduct_reply (s : State) (p : DWord) : (s.setProduct p).reply = s.reply := rfl
@[simp] theorem State.setProduct_cpu_x (s : State) (p : DWord) : (s.setProduct p).cpu.x = s.cpu.x := rfl
@[simp] theorem State.setProduct_cpu_pc (s : State) (p : DWord) : (s.setProduct p).cpu.pc = s.cpu.pc := rfl
@[simp] theorem State.setProduct_cpu_delayFlag (s : State) (p : DWord) : (s.setProduct p).cpu.delayFlag = s.cpu.delayFlag := rfl
@[simp] theorem State.setProduct_cpu_pendingTarget (s : State) (p : DWord) : (s.setProduct p).cpu.pendingTarget = s.cpu.pendingTarget := rfl
@[simp] theorem State.setProduct_cpu_hi (s : State) (p : DWord) :
    (s.setProduct p).cpu.hi = (p.extractLsb' 32 32).signExtend 64 := rfl
@[simp] theorem State.setProduct_cpu_lo (s : State) (p : DWord) :
    (s.setProduct p).cpu.lo = (p.extractLsb' 0 32).signExtend 64 := rfl
@[simp] theorem State.setProduct_cpu_llFlag (s : State) (p : DWord) : (s.setProduct p).cpu.llFlag = s.cpu.llFlag := rfl
@[simp] theorem State.setProduct_cpu_irq (s : State) (p : DWord) : (s.setProduct p).cpu.irq = s.cpu.irq := rfl
@[simp] theorem State.setProduct_cpu_cop0 (s : State) (p : DWord) : (s.setProduct p).cpu.cop0 = s.cpu.cop0 := rfl
@[simp] theorem State.setProduct_cpu_fpr (s : State) (p : DWord) : (s.setProduct p).cpu.fpr = s.cpu.fpr := rfl

/-! #### setLl -/

@[simp] theorem State.setLl_rsp (s : State) (v : Bool) : (s.setLl v).rsp = s.rsp := rfl
@[simp] theorem State.setLl_rdp (s : State) (v : Bool) : (s.setLl v).rdp = s.rdp := rfl
@[simp] theorem State.setLl_rdram (s : State) (v : Bool) : (s.setLl v).rdram = s.rdram := rfl
@[simp] theorem State.setLl_params (s : State) (v : Bool) : (s.setLl v).params = s.params := rfl
@[simp] theorem State.setLl_bank (s : State) (v : Bool) : (s.setLl v).bank = s.bank := rfl
@[simp] theorem State.setLl_cart (s : State) (v : Bool) : (s.setLl v).cart = s.cart := rfl
@[simp] theorem State.setLl_calls (s : State) (v : Bool) : (s.setLl v).calls = s.calls := rfl
@[simp] theorem State.setLl_reply (s : State) (v : Bool) : (s.setLl v).reply = s.reply := rfl
@[simp] theorem State.setLl_cpu_x (s : State) (v : Bool) : (s.setLl v).cpu.x = s.cpu.x := rfl
@[simp] theorem State.setLl_cpu_pc (s : State) (v : Bool) : (s.setLl v).cpu.pc = s.cpu.pc := rfl
@[simp] theorem State.setLl_cpu_delayFlag (s : State) (v : Bool) : (s.setLl v).cpu.delayFlag = s.cpu.delayFlag := rfl
@[simp] theorem State.setLl_cpu_pendingTarget (s : State) (v : Bool) : (s.setLl v).cpu.pendingTarget = s.cpu.pendingTarget := rfl
@[simp] theorem State.setLl_cpu_hi (s : State) (v : Bool) : (s.setLl v).cpu.hi = s.cpu.hi := rfl
@[simp] theorem State.setLl_cpu_lo (s : State) (v : Bool) : (s.setLl v).cpu.lo = s.cpu.lo := rfl
@[simp] theorem State.setLl_cpu_llFlag (s : State) (v : Bool) :
    (s.setLl v).cpu.llFlag = v := rfl
@[simp] theorem State.setLl_cpu_irq (s : State) (v : Bool) : (s.setLl v).cpu.irq = s.cpu.irq := rfl
@[simp] theorem State.setLl_cpu_cop0 (s : State) (v : Bool) : (s.setLl v).cpu.cop0 = s.cpu.cop0 := rfl
@[simp] theorem State.setLl_cpu_fpr (s : State) (v : Bool) : (s.setLl v).cpu.fpr = s.cpu.fpr := rfl

/-! #### setC0 -/

@[simp] theorem State.setC0_rsp (s : State) (r : Reg) (v : Word) : (s.setC0 r v).rsp = s.rsp := rfl
@[simp] theorem State.setC0_rdp (s : State) (r : Reg) (v : Word) : (s.setC0 r v).rdp = s.rdp := rfl
@[simp] theorem State.setC0_rdram (s : State) (r : Reg) (v : Word) : (s.setC0 r v).rdram = s.rdram := rfl
@[simp] theorem State.setC0_params (s : State) (r : Reg) (v : Word) : (s.setC0 r v).params = s.params := rfl
@[simp] theorem State.setC0_bank (s : State) (r : Reg) (v : Word) : (s.setC0 r v).bank = s.bank := rfl
@[simp] theorem State.setC0_cart (s : State) (r : Reg) (v : Word) : (s.setC0 r v).cart = s.cart := rfl
@[simp] theorem State.setC0_calls (s : State) (r : Reg) (v : Word) : (s.setC0 r v).calls = s.calls := rfl
@[simp] theorem State.setC0_reply (s : State) (r : Reg) (v : Word) : (s.setC0 r v).reply = s.reply := rfl
@[simp] theorem State.setC0_cpu_x (s : State) (r : Reg) (v : Word) : (s.setC0 r v).cpu.x = s.cpu.x := rfl
@[simp] theorem State.setC0_cpu_pc (s : State) (r : Reg) (v : Word) : (s.setC0 r v).cpu.pc = s.cpu.pc := rfl
@[simp] theorem State.setC0_cpu_delayFlag (s : State) (r : Reg) (v : Word) : (s.setC0 r v).cpu.delayFlag = s.cpu.delayFlag := rfl
@[simp] theorem State.setC0_cpu_pendingTarget (s : State) (r : Reg) (v : Word) : (s.setC0 r v).cpu.pendingTarget = s.cpu.pendingTarget := rfl
@[simp] theorem State.setC0_cpu_hi (s : State) (r : Reg) (v : Word) : (s.setC0 r v).cpu.hi = s.cpu.hi := rfl
@[simp] theorem State.setC0_cpu_lo (s : State) (r : Reg) (v : Word) : (s.setC0 r v).cpu.lo = s.cpu.lo := rfl
@[simp] theorem State.setC0_cpu_llFlag (s : State) (r : Reg) (v : Word) : (s.setC0 r v).cpu.llFlag = s.cpu.llFlag := rfl
@[simp] theorem State.setC0_cpu_irq (s : State) (r : Reg) (v : Word) : (s.setC0 r v).cpu.irq = s.cpu.irq := rfl
@[simp] theorem State.setC0_cpu_cop0 (s : State) (r : Reg) (v : Word) :
    (s.setC0 r v).cpu.cop0 = s.cpu.cop0.set r.toNat v r.isLt := rfl
@[simp] theorem State.setC0_cpu_fpr (s : State) (r : Reg) (v : Word) : (s.setC0 r v).cpu.fpr = s.cpu.fpr := rfl

/-! #### writeC0 -/

@[simp] theorem State.writeC0_rsp (s : State) (r : Reg) (v : Word) : (s.writeC0 r v).rsp = s.rsp := rfl
@[simp] theorem State.writeC0_rdp (s : State) (r : Reg) (v : Word) : (s.writeC0 r v).rdp = s.rdp := rfl
@[simp] theorem State.writeC0_rdram (s : State) (r : Reg) (v : Word) : (s.writeC0 r v).rdram = s.rdram := rfl
@[simp] theorem State.writeC0_params (s : State) (r : Reg) (v : Word) : (s.writeC0 r v).params = s.params := rfl
@[simp] theorem State.writeC0_bank (s : State) (r : Reg) (v : Word) : (s.writeC0 r v).bank = s.bank := rfl
@[simp] theorem State.writeC0_cart (s : State) (r : Reg) (v : Word) : (s.writeC0 r v).cart = s.cart := rfl
@[simp] theorem State.writeC0_calls (s : State) (r : Reg) (v : Word) : (s.writeC0 r v).calls = s.calls := rfl
@[simp] theorem State.writeC0_reply (s : State) (r : Reg) (v : Word) : (s.writeC0 r v).reply = s.reply := rfl
@[simp] theorem State.writeC0_cpu_x (s : State) (r : Reg) (v : Word) : (s.writeC0 r v).cpu.x = s.cpu.x := rfl
@[simp] theorem State.writeC0_cpu_pc (s : State) (r : Reg) (v : Word) : (s.writeC0 r v).cpu.pc = s.cpu.pc := rfl
@[simp] theorem State.writeC0_cpu_delayFlag (s : State) (r : Reg) (v : Word) : (s.writeC0 r v).cpu.delayFlag = s.cpu.delayFlag := rfl
@[simp] theorem State.writeC0_cpu_pendingTarget (s : State) (r : Reg) (v : Word) : (s.writeC0 r v).cpu.pendingTarget = s.cpu.pendingTarget := rfl
@[simp] theorem State.writeC0_cpu_hi (s : State) (r : Reg) (v : Word) : (s.writeC0 r v).cpu.hi = s.cpu.hi := rfl
@[simp] theorem State.writeC0_cpu_lo (s : State) (r : Reg) (v : Word) : (s.writeC0 r v).cpu.lo = s.cpu.lo := rfl
@[simp] theorem State.writeC0_cpu_llFlag (s : State) (r : Reg) (v : Word) : (s.writeC0 r v).cpu.llFlag = s.cpu.llFlag := rfl
@[simp] theorem State.writeC0_cpu_irq (s : State) (r : Reg) (v : Word) : (s.writeC0 r v).cpu.irq = s.cpu.irq := rfl
@[simp] theorem State.writeC0_cpu_cop0 (s : State) (r : Reg) (v : Word) :
    (s.writeC0 r v).cpu.cop0 = s.cpu.cop0.set r.toNat (if r = 15#5 ∨ r = 16#5 then s.getC0 r else v) r.isLt := rfl
@[simp] theorem State.writeC0_cpu_fpr (s : State) (r : Reg) (v : Word) : (s.writeC0 r v).cpu.fpr = s.cpu.fpr := rfl

/-! #### branch -/

@[simp] theorem State.branch_rsp (s : State) (t : Word) : (s.branch t).rsp = s.rsp := rfl
@[simp] theorem State.branch_rdp (s : State) (t : Word) : (s.branch t).rdp = s.rdp := rfl
@[simp] theorem State.branch_rdram (s : State) (t : Word) : (s.branch t).rdram = s.rdram := rfl
@[simp] theorem State.branch_params (s : State) (t : Word) : (s.branch t).params = s.params := rfl
@[simp] theorem State.branch_bank (s : State) (t : Word) : (s.branch t).bank = s.bank := rfl
@[simp] theorem State.branch_cart (s : State) (t : Word) : (s.branch t).cart = s.cart := rfl
@[simp] theorem State.branch_calls (s : State) (t : Word) : (s.branch t).calls = s.calls := rfl
@[simp] theorem State.branch_reply (s : State) (t : Word) : (s.branch t).reply = s.reply := rfl
@[simp] theorem State.branch_cpu_x (s : State) (t : Word) : (s.branch t).cpu.x = s.cpu.x := rfl
@[simp] theorem State.branch_cpu_pc (s : State) (t : Word) : (s.branch t).cpu.pc = s.cpu.pc := rfl
@[simp] theorem State.branch_cpu_delayFlag (s : State) (t : Word) : (s.branch t).cpu.delayFlag = s.cpu.delayFlag := rfl
@[simp] theorem State.branch_cpu_pendingTarget (s : State) (t : Word) :
    (s.branch t).cpu.pendingTarget = t := rfl
@[simp] theorem State.branch_cpu_hi (s : State) (t : Word) : (s.branch t).cpu.hi = s.cpu.hi := rfl
@[simp] theorem State.branch_cpu_lo (s : State) (t : Word) : (s.branch t).cpu.lo = s.cpu.lo := rfl
@[simp] theorem State.branch_cpu_llFlag (s : State) (t : Word) : (s.branch t).cpu.llFlag = s.cpu.llFlag := rfl
@[simp] theorem State.branch_cpu_irq (s : State) (t : Word) : (s.branch t).cpu.irq = s.cpu.irq := rfl
@[simp] theorem State.branch_cpu_cop0 (s : State) (t : Word) : (s.branch t).cpu.cop0 = s.cpu.cop0 := rfl
@[simp] theorem State.branch_cpu_fpr (s : State) (t : Word) : (s.branch t).cpu.fpr = s.cpu.fpr := rfl

/-! #### advance -/

@[simp] theorem State.advance_rsp (s : State) (taken : Bool) : (s.advance taken).rsp = s.rsp := rfl
@[simp] theorem State.advance_rdp (s : State) (taken : Bool) : (s.advance taken).rdp = s.rdp := rfl
@[simp] theorem State.advance_rdram (s : State) (taken : Bool) : (s.advance taken).rdram = s.rdram := rfl
@[simp] theorem State.advance_params (s : State) (taken : Bool) : (s.advance taken).params = s.params := rfl
@[simp] theorem State.advance_bank (s : State) (taken : Bool) : (s.advance taken).bank = s.bank := rfl
@[simp] theorem State.advance_cart (s : State) (taken : Bool) : (s.advance taken).cart = s.cart := rfl
@[simp] theorem State.advance_calls (s : State) (taken : Bool) : (s.advance taken).calls = s.calls := rfl
@[simp] theorem State.advance_reply (s : State) (taken : Bool) : (s.advance taken).reply = s.reply := rfl
@[simp] theorem State.advance_cpu_x (s : State) (taken : Bool) : (s.advance taken).cpu.x = s.cpu.x := rfl
@[simp] theorem State.advance_cpu_pc (s : State) (taken : Bool) :
    (s.advance taken).cpu.pc = if s.cpu.delayFlag then s.cpu.pendingTarget else s.cpu.pc + 4#32 := rfl
@[simp] theorem State.advance_cpu_delayFlag (s : State) (taken : Bool) :
    (s.advance taken).cpu.delayFlag = (!s.cpu.delayFlag && taken) := rfl
@[simp] theorem State.advance_cpu_pendingTarget (s : State) (taken : Bool) : (s.advance taken).cpu.pendingTarget = s.cpu.pendingTarget := rfl
@[simp] theorem State.advance_cpu_hi (s : State) (taken : Bool) : (s.advance taken).cpu.hi = s.cpu.hi := rfl
@[simp] theorem State.advance_cpu_lo (s : State) (taken : Bool) : (s.advance taken).cpu.lo = s.cpu.lo := rfl
@[simp] theorem State.advance_cpu_llFlag (s : State) (taken : Bool) : (s.advance taken).cpu.llFlag = s.cpu.llFlag := rfl
@[simp] theorem State.advance_cpu_irq (s : State) (taken : Bool) : (s.advance taken).cpu.irq = s.cpu.irq := rfl
@[simp] theorem State.advance_cpu_cop0 (s : State) (taken : Bool) : (s.advance taken).cpu.cop0 = s.cpu.cop0 := rfl
@[simp] theorem State.advance_cpu_fpr (s : State) (taken : Bool) : (s.advance taken).cpu.fpr = s.cpu.fpr := rfl

/-! #### retire -/

@[simp] theorem State.retire_rsp (s : State) : (s.retire).rsp = s.rsp := rfl
@[simp] theorem State.retire_rdp (s : State) : (s.retire).rdp = s.rdp := rfl
@[simp] theorem State.retire_rdram (s : State) : (s.retire).rdram = s.rdram := rfl
@[simp] theorem State.retire_params (s : State) : (s.retire).params = s.params := rfl
@[simp] theorem State.retire_bank (s : State) : (s.retire).bank = s.bank := rfl
@[simp] theorem State.retire_cart (s : State) : (s.retire).cart = s.cart := rfl
@[simp] theorem State.retire_calls (s : State) : (s.retire).calls = s.calls := rfl
@[simp] theorem State.retire_reply (s : State) : (s.retire).reply = s.reply := rfl
@[simp] theorem State.retire_cpu_x (s : State) : (s.retire).cpu.x = s.cpu.x := rfl
@[simp] theorem State.retire_cpu_pc (s : State) :
    (s.retire).cpu.pc = if s.cpu.delayFlag then s.cpu.pendingTarget else s.cpu.pc + 4#32 := rfl
@[simp] theorem State.retire_cpu_delayFlag (s : State) :
    (s.retire).cpu.delayFlag = (!s.cpu.delayFlag && false) := rfl
@[simp] theorem State.retire_cpu_pendingTarget (s : State) : (s.retire).cpu.pendingTarget = s.cpu.pendingTarget := rfl
@[simp] theorem State.retire_cpu_hi (s : State) : (s.retire).cpu.hi = s.cpu.hi := rfl
@[simp] theorem State.retire_cpu_lo (s : State) : (s.retire).cpu.lo = s.cpu.lo := rfl
@[simp] theorem State.retire_cpu_llFlag (s : State) : (s.retire).cpu.llFlag = s.cpu.llFlag := rfl
@[simp] theorem State.retire_cpu_irq (s : State) : (s.retire).cpu.irq = s.cpu.irq := rfl
@[simp] theorem State.retire_cpu_cop0 (s : State) : (s.retire).cpu.cop0 = s.cpu.cop0 := rfl
@[simp] theorem State.retire_cpu_fpr (s : State) : (s.retire).cpu.fpr = s.cpu.fpr := rfl

/-! #### enterException -/

@[simp] theorem State.enterException_rsp (s : State) (c : ExcCode) : (s.enterException c).rsp = s.rsp := rfl
@[simp] theorem State.enterException_rdp (s : State) (c : ExcCode) : (s.enterException c).rdp = s.rdp := rfl
@[simp] theorem State.enterException_rdram (s : State) (c : ExcCode) : (s.enterException c).rdram = s.rdram := rfl
@[simp] theorem State.enterException_params (s : State) (c : ExcCode) : (s.enterException c).params = s.params := rfl
@[simp] theorem State.enterException_bank (s : State) (c : ExcCode) : (s.enterException c).bank = s.bank := rfl
@[simp] theorem State.enterException_cart (s : State) (c : ExcCode) : (s.enterException c).cart = s.cart := rfl
@[simp] theorem State.enterException_calls (s : State) (c : ExcCode) : (s.enterException c).calls = s.calls := rfl
@[simp] theorem State.enterException_reply (s : State) (c : ExcCode) : (s.enterException c).reply = s.reply := rfl
@[simp] theorem State.enterException_cpu_x (s : State) (c : ExcCode) : (s.enterException c).cpu.x = s.cpu.x := rfl
@[simp] theorem State.enterException_cpu_pc (s : State) (c : ExcCode) :
    (s.enterException c).cpu.pc = exceptionVector s.params s.status := rfl
@[simp] theorem State.enterException_cpu_delayFlag (s : State) (c : ExcCode) :
    (s.enterException c).cpu.delayFlag = false := rfl
@[simp] theorem State.enterException_cpu_pendingTarget (s : State) (c : ExcCode) : (s.enterException c).cpu.pendingTarget = s.cpu.pendingTarget := rfl
@[simp] theorem State.enterException_cpu_hi (s : State) (c : ExcCode) : (s.enterException c).cpu.hi = s.cpu.hi := rfl
@[simp] theorem State.enterException_cpu_lo (s : State) (c : ExcCode) : (s.enterException c).cpu.lo = s.cpu.lo := rfl
@[simp] theorem State.enterException_cpu_llFlag (s : State) (c : ExcCode) : (s.enterException c).cpu.llFlag = s.cpu.llFlag := rfl
@[simp] theorem State.enterException_cpu_irq (s : State) (c : ExcCode) : (s.enterException c).cpu.irq = s.cpu.irq := rfl
@[simp] theorem State.enterException_cpu_fpr (s : State) (c : ExcCode) : (s.enterException c).cpu.fpr = s.cpu.fpr := rfl

/-! #### returnFromException -/

@[simp] theorem State.returnFromException_rsp (s : State) : (s.returnFromException).rsp = s.rsp := rfl
@[simp] theorem State.returnFromException_rdp (s : State) : (s.returnFromException).rdp = s.rdp := rfl
@[simp] theorem State.returnFromException_rdram (s : State) : (s.returnFromException).rdram = s.rdram := rfl
@[simp] theorem State.returnFromException_params (s : State) : (s.returnFromException).params = s.params := rfl
@[simp] theorem State.returnFromException_bank (s : State) : (s.returnFromException).bank = s.bank := rfl
@[simp] theorem State.returnFromException_cart (s : State) : (s.returnFromException).cart = s.cart := rfl
@[simp] theorem State.returnFromException_calls (s : State) : (s.returnFromException).calls = s.calls := rfl
@[simp] theorem State.returnFromException_reply (s : State) : (s.returnFromException).reply = s.reply := rfl
@[simp] theorem State.returnFromException_cpu_x (s : State) : (s.returnFromException).cpu.x = s.cpu.x := rfl
@[simp] theorem State.returnFromException_cpu_pc (s : State) :
    (s.returnFromException).cpu.pc = s.epc &&& 0xFFFFFFFC#32 := rfl
@[simp] theorem State.returnFromException_cpu_delayFlag (s : State) :
    (s.returnFromException).cpu.delayFlag = false := rfl
@[simp] theorem State.returnFromException_cpu_pendingTarget (s : State) : (s.returnFromException).cpu.pendingTarget = s.cpu.pendingTarget := rfl
@[simp] theorem State.returnFromException_cpu_hi (s : State) : (s.returnFromException).cpu.hi = s.cpu.hi := rfl
@[simp] theorem State.returnFromException_cpu_lo (s : State) : (s.returnFromException).cpu.lo = s.cpu.lo := rfl
@[simp] theorem State.returnFromException_cpu_llFlag (s : State) : (s.returnFromException).cpu.llFlag = s.cpu.llFlag := rfl
@[simp] theorem State.returnFromException_cpu_irq (s : State) : (s.returnFromException).cpu.irq = s.cpu.irq := rfl
@[simp] theorem State.returnFromException_cpu_fpr (s : State) : (s.returnFromException).cpu.fpr = s.cpu.fpr := rfl

/-! #### irqSet -/

@[simp] theorem State.irqSet_rsp (s : State) (line : IrqLine) : (s.irqSet line).rsp = s.rsp := rfl
@[simp] theorem State.irqSet_rdp (s : State) (line : IrqLine) : (s.irqSet line).rdp = s.rdp := rfl
@[simp] theorem State.irqSet_rdram (s : State) (line : IrqLine) : (s.irqSet line).rdram = s.rdram := rfl
@[simp] theorem State.irqSet_params (s : State) (line : IrqLine) : (s.irqSet line).params = s.params := rfl
@[simp] theorem State.irqSet_bank (s : State) (line : IrqLine) : (s.irqSet line).bank = s.bank := rfl
@[simp] theorem State.irqSet_cart (s : State) (line : IrqLine) : (s.irqSet line).cart = s.cart := rfl
@[simp] theorem State.irqSet_calls (s : State) (line : IrqLine) : (s.irqSet line).calls = s.calls := rfl
@[simp] theorem State.irqSet_reply (s : State) (line : IrqLine) : (s.irqSet line).reply = s.reply := rfl
@[simp] theorem State.irqSet_cpu_x (s : State) (line : IrqLine) : (s.irqSet line).cpu.x = s.cpu.x := rfl
@[simp] theorem State.irqSet_cpu_pc (s : State) (line : IrqLine) : (s.irqSet line).cpu.pc = s.cpu.pc := rfl
@[simp] theorem State.irqSet_cpu_delayFlag (s : State) (line : IrqLine) : (s.irqSet line).cpu.delayFlag = s.cpu.delayFlag := rfl
@[simp] theorem State.irqSet_cpu_pendingTarget (s : State) (line : IrqLine) : (s.irqSet line).cpu.pendingTarget = s.cpu.pendingTarget := rfl
@[simp] theorem State.irqSet_cpu_hi (s : State) (line : IrqLine) : (s.irqSet line).cpu.hi = s.cpu.hi := rfl
@[simp] theorem State.irqSet_cpu_lo (s : State) (line : IrqLine) : (s.irqSet line).cpu.lo = s.cpu.lo := rfl
@[simp] theorem State.irqSet_cpu_llFlag (s : State) (line : IrqLine) : (s.irqSet line).cpu.llFlag = s.cpu.llFlag := rfl
@[simp] theorem State.irqSet_cpu_irq (s : State) (line : IrqLine) :
    (s.irqSet line).cpu.irq = s.cpu.irq ||| irqBit line := rfl
@[simp] theorem State.irqSet_cpu_cop0 (s : State) (line : IrqLine) : (s.irqSet line).cpu.cop0 = s.cpu.cop0 := rfl
@[simp] theorem State.irqSet_cpu_fpr (s : State) (line : IrqLine) : (s.irqSet line).cpu.fpr = s.cpu.fpr := rfl

/-! #### irqClear -/

@[simp] theorem State.irqClear_rsp (s : State) (line : IrqLine) : (s.irqClear line).rsp = s.rsp := rfl
@[simp] theorem State.irqClear_rdp (s : State) (line : IrqLine) : (s.irqClear line).rdp = s.rdp := rfl
@[simp] theorem State.irqClear_rdram (s : State) (line : IrqLine) : (s.irqClear line).rdram = s.rdram := rfl
@[simp] theorem State.irqClear_params (s : State) (line : IrqLine) : (s.irqClear line).params = s.params := rfl
@[simp] theorem State.irqClear_bank (s : State) (line : IrqLine) : (s.irqClear line).bank = s.bank := rfl
@[simp] theorem State.irqClear_cart (s : State) (line : IrqLine) : (s.irqClear line).cart = s.cart := rfl
@[simp] theorem State.irqClear_calls (s : State) (line : IrqLine) : (s.irqClear line).calls = s.calls := rfl
@[simp] theorem State.irqClear_reply (s : State) (line : IrqLine) : (s.irqClear line).reply = s.reply := rfl
@[simp] theorem State.irqClear_cpu_x (s : State) (line : IrqLine) : (s.irqClear line).cpu.x = s.cpu.x := rfl
@[simp] theorem State.irqClear_cpu_pc (s : State) (line : IrqLine) : (s.irqClear line).cpu.pc = s.cpu.pc := rfl
@[simp] theorem State.irqClear_cpu_delayFlag (s : State) (line : IrqLine) : (s.irqClear line).cpu.delayFlag = s.cpu.delayFlag := rfl
@[simp] theorem State.irqClear_cpu_pendingTarget (s : State) (line : IrqLine) : (s.irqClear line).cpu.pendingTarget = s.cpu.pendingTarget := rfl
@[simp] theorem State.irqClear_cpu_hi (s : State) (line : IrqLine) : (s.irqClear line).cpu.hi = s.cpu.hi := rfl
@[simp] theorem State.irqClear_cpu_lo (s : State) (line : IrqLine) : (s.irqClear line).cpu.lo = s.cpu.lo := rfl
@[simp] theorem State.irqClear_cpu_llFlag (s : State) (line : IrqLine) : (s.irqClear line).cpu.llFlag = s.cpu.llFlag := rfl
@[simp] theorem State.irqClear_cpu_irq (s : State) (line : IrqLine) :
    (s.irqClear line).cpu.irq = s.cpu.irq &&& ~~~(irqBit line) := rfl
@[simp] theorem State.irqClear_cpu_cop0 (s : State) (line : IrqLine) : (s.irqClear line).cpu.cop0 = s.cpu.cop0 := rfl
@[simp] theorem State.irqClear_cpu_fpr (s : State) (line : IrqLine) : (s.irqClear line).cpu.fpr = s.cpu.fpr := rfl

/-! #### setR -/

@[simp] theorem State.setR_cpu (s : State) (r : Reg) (v : Word) : (s.setR r v).cpu = s.cpu := rfl
@[simp] theorem State.setR_rdp (s : State) (r : Reg) (v : Word) : (s.setR r v).rdp = s.rdp := rfl
@[simp] theorem State.setR_rdram (s : State) (r : Reg) (v : Word) : (s.setR r v).rdram = s.rdram := rfl
@[simp] theorem State.setR_params (s : State) (r : Reg) (v : Word) : (s.setR r v).params = s.params := rfl
@[simp] theorem State.setR_bank (s : State) (r : Reg) (v : Word) : (s.setR r v).bank = s.bank := rfl
@[simp] theorem State.setR_cart (s : State) (r : Reg) (v : Word) : (s.setR r v).cart = s.cart := rfl
@[simp] theorem State.setR_calls (s : State) (r : Reg) (v : Word) : (s.setR r v).calls = s.calls := rfl
@[simp] theorem State.setR_reply (s : State) (r : Reg) (v : Word) : (s.setR r v).reply = s.reply := rfl
@[simp] theorem State.setR_rsp_x (s : State) (r : Reg) (v : Word) :
    (s.setR r v).rsp.x = regWrite s.rsp.x r v := rfl
@[simp] theorem State.setR_rsp_pc (s : State) (r : Reg) (v : Word) : (s.setR r v).rsp.pc = s.rsp.pc := rfl
@[simp] theorem State.setR_rsp_delayFlag (s : State) (r : Reg) (v : Word) : (s.setR r v).rsp.delayFlag = s.rsp.delayFlag := rfl
@[simp] theorem State.setR_rsp_pendingTarget (s : State) (r : Reg) (v : Word) : (s.setR r v).rsp.pendingTarget = s.rsp.pendingTarget := rfl
@[simp] theorem State.setR_rsp_v (s : State) (r : Reg) (v : Word) : (s.setR r v).rsp.v = s.rsp.v := rfl
@[simp] theorem State.setR_rsp_run (s : State) (r : Reg) (v : Word) : (s.setR r v).rsp.run = s.rsp.run := rfl
@[simp] theorem State.setR_rsp_imem (s : State) (r : Reg) (v : Word) : (s.setR r v).rsp.imem = s.rsp.imem := rfl
@[simp] theorem State.setR_rsp_dmem (s : State) (r : Reg) (v : Word) : (s.setR r v).rsp.dmem = s.rsp.dmem := rfl
@[simp] theorem State.setR_rsp_memAddr (s : State) (r : Reg) (v : Word) : (s.setR r v).rsp.memAddr = s.rsp.memAddr := rfl
@[simp] theorem State.setR_rsp_dramAddr (s : State) (r : Reg) (v : Word) : (s.setR r v).rsp.dramAddr = s.rsp.dramAddr := rfl

/-! #### setV -/

@[simp] theorem State.setV_cpu (s : State) (r : Reg) (l : Vector Lane 8) : (s.setV r l).cpu = s.cpu := rfl
@[simp] theorem State.setV_rdp (s : State) (r : Reg) (l : Vector Lane 8) : (s.setV r l).rdp = s.rdp := rfl
@[simp] theorem State.setV_rdram (s : State) (r : Reg) (l : Vector Lane 8) : (s.setV r l).rdram = s.rdram := rfl
@[simp] theorem State.setV_params (s : State) (r : Reg) (l : Vector Lane 8) : (s.setV r l).params = s.params := rfl
@[simp] theorem State.setV_bank (s : State) (r : Reg) (l : Vector Lane 8) : (s.setV r l).bank = s.bank := rfl
@[simp] theorem State.setV_cart (s : State) (r : Reg) (l : Vector Lane 8) : (s.setV r l).cart = s.cart := rfl
@[simp] theorem State.setV_calls (s : State) (r : Reg) (l : Vector Lane 8) : (s.setV r l).calls = s.calls := rfl
@[simp] theorem State.setV_reply (s : State) (r : Reg) (l : Vector Lane 8) : (s.setV r l).reply = s.reply := rfl
@[simp] theorem State.setV_rsp_x (s : State) (r : Reg) (l : Vector Lane 8) : (s.setV r l).rsp.x = s.rsp.x := rfl
@[simp] theorem State.setV_rsp_pc (s : State) (r : Reg) (l : Vector Lane 8) : (s.setV r l).rsp.pc = s.rsp.pc := rfl
@[simp] theorem State.setV_rsp_delayFlag (s : State) (r : Reg) (l : Vector Lane 8) : (s.setV r l).rsp.delayFlag = s.rsp.delayFlag := rfl
@[simp] theorem State.setV_rsp_pendingTarget (s : State) (r : Reg) (l : Vector Lane 8) : (s.setV r l).rsp.pendingTarget = s.rsp.pendingTarget := rfl
@[simp] theorem State.setV_rsp_v (s : State) (r : Reg) (l : Vector Lane 8) :
    (s.setV r l).rsp.v = s.rsp.v.set r.toNat l r.isLt := rfl
@[simp] theorem State.setV_rsp_run (s : State) (r : Reg) (l : Vector Lane 8) : (s.setV r l).rsp.run = s.rsp.run := rfl
@[simp] theorem State.setV_rsp_imem (s : State) (r : Reg) (l : Vector Lane 8) : (s.setV r l).rsp.imem = s.rsp.imem := rfl
@[simp] theorem State.setV_rsp_dmem (s : State) (r : Reg) (l : Vector Lane 8) : (s.setV r l).rsp.dmem = s.rsp.dmem := rfl
@[simp] theorem State.setV_rsp_memAddr (s : State) (r : Reg) (l : Vector Lane 8) : (s.setV r l).rsp.memAddr = s.rsp.memAddr := rfl
@[simp] theorem State.setV_rsp_dramAddr (s : State) (r : Reg) (l : Vector Lane 8) : (s.setV r l).rsp.dramAddr = s.rsp.dramAddr := rfl

/-! #### dmemWrite -/

@[simp] theorem State.dmemWrite_cpu (s : State) (a : Nat) (n : Access) (v : Word) : (s.dmemWrite a n v).cpu = s.cpu := rfl
@[simp] theorem State.dmemWrite_rdp (s : State) (a : Nat) (n : Access) (v : Word) : (s.dmemWrite a n v).rdp = s.rdp := rfl
@[simp] theorem State.dmemWrite_rdram (s : State) (a : Nat) (n : Access) (v : Word) : (s.dmemWrite a n v).rdram = s.rdram := rfl
@[simp] theorem State.dmemWrite_params (s : State) (a : Nat) (n : Access) (v : Word) : (s.dmemWrite a n v).params = s.params := rfl
@[simp] theorem State.dmemWrite_bank (s : State) (a : Nat) (n : Access) (v : Word) : (s.dmemWrite a n v).bank = s.bank := rfl
@[simp] theorem State.dmemWrite_cart (s : State) (a : Nat) (n : Access) (v : Word) : (s.dmemWrite a n v).cart = s.cart := rfl
@[simp] theorem State.dmemWrite_calls (s : State) (a : Nat) (n : Access) (v : Word) : (s.dmemWrite a n v).calls = s.calls := rfl
@[simp] theorem State.dmemWrite_reply (s : State) (a : Nat) (n : Access) (v : Word) : (s.dmemWrite a n v).reply = s.reply := rfl
@[simp] theorem State.dmemWrite_rsp_x (s : State) (a : Nat) (n : Access) (v : Word) : (s.dmemWrite a n v).rsp.x = s.rsp.x := rfl
@[simp] theorem State.dmemWrite_rsp_pc (s : State) (a : Nat) (n : Access) (v : Word) : (s.dmemWrite a n v).rsp.pc = s.rsp.pc := rfl
@[simp] theorem State.dmemWrite_rsp_delayFlag (s : State) (a : Nat) (n : Access) (v : Word) : (s.dmemWrite a n v).rsp.delayFlag = s.rsp.delayFlag := rfl
@[simp] theorem State.dmemWrite_rsp_pendingTarget (s : State) (a : Nat) (n : Access) (v : Word) : (s.dmemWrite a n v).rsp.pendingTarget = s.rsp.pendingTarget := rfl
@[simp] theorem State.dmemWrite_rsp_v (s : State) (a : Nat) (n : Access) (v : Word) : (s.dmemWrite a n v).rsp.v = s.rsp.v := rfl
@[simp] theorem State.dmemWrite_rsp_run (s : State) (a : Nat) (n : Access) (v : Word) : (s.dmemWrite a n v).rsp.run = s.rsp.run := rfl
@[simp] theorem State.dmemWrite_rsp_imem (s : State) (a : Nat) (n : Access) (v : Word) : (s.dmemWrite a n v).rsp.imem = s.rsp.imem := rfl
@[simp] theorem State.dmemWrite_rsp_dmem (s : State) (a : Nat) (n : Access) (v : Word) :
    (s.dmemWrite a n v).rsp.dmem = writeBytes s.rsp.dmem Config.localSize (fun i => (a + i) % Config.localSize) n.size v := rfl
@[simp] theorem State.dmemWrite_rsp_memAddr (s : State) (a : Nat) (n : Access) (v : Word) : (s.dmemWrite a n v).rsp.memAddr = s.rsp.memAddr := rfl
@[simp] theorem State.dmemWrite_rsp_dramAddr (s : State) (a : Nat) (n : Access) (v : Word) : (s.dmemWrite a n v).rsp.dramAddr = s.rsp.dramAddr := rfl

/-! #### rspBranch -/

@[simp] theorem State.rspBranch_cpu (s : State) (t : Local) : (s.rspBranch t).cpu = s.cpu := rfl
@[simp] theorem State.rspBranch_rdp (s : State) (t : Local) : (s.rspBranch t).rdp = s.rdp := rfl
@[simp] theorem State.rspBranch_rdram (s : State) (t : Local) : (s.rspBranch t).rdram = s.rdram := rfl
@[simp] theorem State.rspBranch_params (s : State) (t : Local) : (s.rspBranch t).params = s.params := rfl
@[simp] theorem State.rspBranch_bank (s : State) (t : Local) : (s.rspBranch t).bank = s.bank := rfl
@[simp] theorem State.rspBranch_cart (s : State) (t : Local) : (s.rspBranch t).cart = s.cart := rfl
@[simp] theorem State.rspBranch_calls (s : State) (t : Local) : (s.rspBranch t).calls = s.calls := rfl
@[simp] theorem State.rspBranch_reply (s : State) (t : Local) : (s.rspBranch t).reply = s.reply := rfl
@[simp] theorem State.rspBranch_rsp_x (s : State) (t : Local) : (s.rspBranch t).rsp.x = s.rsp.x := rfl
@[simp] theorem State.rspBranch_rsp_pc (s : State) (t : Local) : (s.rspBranch t).rsp.pc = s.rsp.pc := rfl
@[simp] theorem State.rspBranch_rsp_delayFlag (s : State) (t : Local) : (s.rspBranch t).rsp.delayFlag = s.rsp.delayFlag := rfl
@[simp] theorem State.rspBranch_rsp_pendingTarget (s : State) (t : Local) :
    (s.rspBranch t).rsp.pendingTarget = t := rfl
@[simp] theorem State.rspBranch_rsp_v (s : State) (t : Local) : (s.rspBranch t).rsp.v = s.rsp.v := rfl
@[simp] theorem State.rspBranch_rsp_run (s : State) (t : Local) : (s.rspBranch t).rsp.run = s.rsp.run := rfl
@[simp] theorem State.rspBranch_rsp_imem (s : State) (t : Local) : (s.rspBranch t).rsp.imem = s.rsp.imem := rfl
@[simp] theorem State.rspBranch_rsp_dmem (s : State) (t : Local) : (s.rspBranch t).rsp.dmem = s.rsp.dmem := rfl
@[simp] theorem State.rspBranch_rsp_memAddr (s : State) (t : Local) : (s.rspBranch t).rsp.memAddr = s.rsp.memAddr := rfl
@[simp] theorem State.rspBranch_rsp_dramAddr (s : State) (t : Local) : (s.rspBranch t).rsp.dramAddr = s.rsp.dramAddr := rfl

/-! #### rspAdvance -/

@[simp] theorem State.rspAdvance_cpu (s : State) (taken : Bool) : (s.rspAdvance taken).cpu = s.cpu := rfl
@[simp] theorem State.rspAdvance_rdp (s : State) (taken : Bool) : (s.rspAdvance taken).rdp = s.rdp := rfl
@[simp] theorem State.rspAdvance_rdram (s : State) (taken : Bool) : (s.rspAdvance taken).rdram = s.rdram := rfl
@[simp] theorem State.rspAdvance_params (s : State) (taken : Bool) : (s.rspAdvance taken).params = s.params := rfl
@[simp] theorem State.rspAdvance_bank (s : State) (taken : Bool) : (s.rspAdvance taken).bank = s.bank := rfl
@[simp] theorem State.rspAdvance_cart (s : State) (taken : Bool) : (s.rspAdvance taken).cart = s.cart := rfl
@[simp] theorem State.rspAdvance_calls (s : State) (taken : Bool) : (s.rspAdvance taken).calls = s.calls := rfl
@[simp] theorem State.rspAdvance_reply (s : State) (taken : Bool) : (s.rspAdvance taken).reply = s.reply := rfl
@[simp] theorem State.rspAdvance_rsp_x (s : State) (taken : Bool) : (s.rspAdvance taken).rsp.x = s.rsp.x := rfl
@[simp] theorem State.rspAdvance_rsp_pc (s : State) (taken : Bool) :
    (s.rspAdvance taken).rsp.pc = if s.rsp.delayFlag then s.rsp.pendingTarget else (s.rsp.pc + 4#12) &&& 0xFFC#12 := rfl
@[simp] theorem State.rspAdvance_rsp_delayFlag (s : State) (taken : Bool) :
    (s.rspAdvance taken).rsp.delayFlag = (!s.rsp.delayFlag && taken) := rfl
@[simp] theorem State.rspAdvance_rsp_pendingTarget (s : State) (taken : Bool) : (s.rspAdvance taken).rsp.pendingTarget = s.rsp.pendingTarget := rfl
@[simp] theorem State.rspAdvance_rsp_v (s : State) (taken : Bool) : (s.rspAdvance taken).rsp.v = s.rsp.v := rfl
@[simp] theorem State.rspAdvance_rsp_run (s : State) (taken : Bool) : (s.rspAdvance taken).rsp.run = s.rsp.run := rfl
@[simp] theorem State.rspAdvance_rsp_imem (s : State) (taken : Bool) : (s.rspAdvance taken).rsp.imem = s.rsp.imem := rfl
@[simp] theorem State.rspAdvance_rsp_dmem (s : State) (taken : Bool) : (s.rspAdvance taken).rsp.dmem = s.rsp.dmem := rfl
@[simp] theorem State.rspAdvance_rsp_memAddr (s : State) (taken : Bool) : (s.rspAdvance taken).rsp.memAddr = s.rsp.memAddr := rfl
@[simp] theorem State.rspAdvance_rsp_dramAddr (s : State) (taken : Bool) : (s.rspAdvance taken).rsp.dramAddr = s.rsp.dramAddr := rfl

/-! #### rspRetire -/

@[simp] theorem State.rspRetire_cpu (s : State) : (s.rspRetire).cpu = s.cpu := rfl
@[simp] theorem State.rspRetire_rdp (s : State) : (s.rspRetire).rdp = s.rdp := rfl
@[simp] theorem State.rspRetire_rdram (s : State) : (s.rspRetire).rdram = s.rdram := rfl
@[simp] theorem State.rspRetire_params (s : State) : (s.rspRetire).params = s.params := rfl
@[simp] theorem State.rspRetire_bank (s : State) : (s.rspRetire).bank = s.bank := rfl
@[simp] theorem State.rspRetire_cart (s : State) : (s.rspRetire).cart = s.cart := rfl
@[simp] theorem State.rspRetire_calls (s : State) : (s.rspRetire).calls = s.calls := rfl
@[simp] theorem State.rspRetire_reply (s : State) : (s.rspRetire).reply = s.reply := rfl
@[simp] theorem State.rspRetire_rsp_x (s : State) : (s.rspRetire).rsp.x = s.rsp.x := rfl
@[simp] theorem State.rspRetire_rsp_pc (s : State) :
    (s.rspRetire).rsp.pc = if s.rsp.delayFlag then s.rsp.pendingTarget else (s.rsp.pc + 4#12) &&& 0xFFC#12 := rfl
@[simp] theorem State.rspRetire_rsp_delayFlag (s : State) :
    (s.rspRetire).rsp.delayFlag = (!s.rsp.delayFlag && false) := rfl
@[simp] theorem State.rspRetire_rsp_pendingTarget (s : State) : (s.rspRetire).rsp.pendingTarget = s.rsp.pendingTarget := rfl
@[simp] theorem State.rspRetire_rsp_v (s : State) : (s.rspRetire).rsp.v = s.rsp.v := rfl
@[simp] theorem State.rspRetire_rsp_run (s : State) : (s.rspRetire).rsp.run = s.rsp.run := rfl
@[simp] theorem State.rspRetire_rsp_imem (s : State) : (s.rspRetire).rsp.imem = s.rsp.imem := rfl
@[simp] theorem State.rspRetire_rsp_dmem (s : State) : (s.rspRetire).rsp.dmem = s.rsp.dmem := rfl
@[simp] theorem State.rspRetire_rsp_memAddr (s : State) : (s.rspRetire).rsp.memAddr = s.rsp.memAddr := rfl
@[simp] theorem State.rspRetire_rsp_dramAddr (s : State) : (s.rspRetire).rsp.dramAddr = s.rsp.dramAddr := rfl

/-! #### setRun -/

@[simp] theorem State.setRun_cpu (s : State) (r : RunState) : (s.setRun r).cpu = s.cpu := rfl
@[simp] theorem State.setRun_rdp (s : State) (r : RunState) : (s.setRun r).rdp = s.rdp := rfl
@[simp] theorem State.setRun_rdram (s : State) (r : RunState) : (s.setRun r).rdram = s.rdram := rfl
@[simp] theorem State.setRun_params (s : State) (r : RunState) : (s.setRun r).params = s.params := rfl
@[simp] theorem State.setRun_bank (s : State) (r : RunState) : (s.setRun r).bank = s.bank := rfl
@[simp] theorem State.setRun_cart (s : State) (r : RunState) : (s.setRun r).cart = s.cart := rfl
@[simp] theorem State.setRun_calls (s : State) (r : RunState) : (s.setRun r).calls = s.calls := rfl
@[simp] theorem State.setRun_reply (s : State) (r : RunState) : (s.setRun r).reply = s.reply := rfl
@[simp] theorem State.setRun_rsp_x (s : State) (r : RunState) : (s.setRun r).rsp.x = s.rsp.x := rfl
@[simp] theorem State.setRun_rsp_pc (s : State) (r : RunState) : (s.setRun r).rsp.pc = s.rsp.pc := rfl
@[simp] theorem State.setRun_rsp_delayFlag (s : State) (r : RunState) : (s.setRun r).rsp.delayFlag = s.rsp.delayFlag := rfl
@[simp] theorem State.setRun_rsp_pendingTarget (s : State) (r : RunState) : (s.setRun r).rsp.pendingTarget = s.rsp.pendingTarget := rfl
@[simp] theorem State.setRun_rsp_v (s : State) (r : RunState) : (s.setRun r).rsp.v = s.rsp.v := rfl
@[simp] theorem State.setRun_rsp_run (s : State) (r : RunState) :
    (s.setRun r).rsp.run = r := rfl
@[simp] theorem State.setRun_rsp_imem (s : State) (r : RunState) : (s.setRun r).rsp.imem = s.rsp.imem := rfl
@[simp] theorem State.setRun_rsp_dmem (s : State) (r : RunState) : (s.setRun r).rsp.dmem = s.rsp.dmem := rfl
@[simp] theorem State.setRun_rsp_memAddr (s : State) (r : RunState) : (s.setRun r).rsp.memAddr = s.rsp.memAddr := rfl
@[simp] theorem State.setRun_rsp_dramAddr (s : State) (r : RunState) : (s.setRun r).rsp.dramAddr = s.rsp.dramAddr := rfl

/-! #### dmaToDmem -/

@[simp] theorem State.dmaToDmem_cpu (s : State) (d m n : Nat) : (s.dmaToDmem d m n).cpu = s.cpu := rfl
@[simp] theorem State.dmaToDmem_rdp (s : State) (d m n : Nat) : (s.dmaToDmem d m n).rdp = s.rdp := rfl
@[simp] theorem State.dmaToDmem_rdram (s : State) (d m n : Nat) : (s.dmaToDmem d m n).rdram = s.rdram := rfl
@[simp] theorem State.dmaToDmem_params (s : State) (d m n : Nat) : (s.dmaToDmem d m n).params = s.params := rfl
@[simp] theorem State.dmaToDmem_bank (s : State) (d m n : Nat) : (s.dmaToDmem d m n).bank = s.bank := rfl
@[simp] theorem State.dmaToDmem_cart (s : State) (d m n : Nat) : (s.dmaToDmem d m n).cart = s.cart := rfl
@[simp] theorem State.dmaToDmem_calls (s : State) (d m n : Nat) : (s.dmaToDmem d m n).calls = s.calls := rfl
@[simp] theorem State.dmaToDmem_reply (s : State) (d m n : Nat) : (s.dmaToDmem d m n).reply = s.reply := rfl
@[simp] theorem State.dmaToDmem_rsp_x (s : State) (d m n : Nat) : (s.dmaToDmem d m n).rsp.x = s.rsp.x := rfl
@[simp] theorem State.dmaToDmem_rsp_pc (s : State) (d m n : Nat) : (s.dmaToDmem d m n).rsp.pc = s.rsp.pc := rfl
@[simp] theorem State.dmaToDmem_rsp_delayFlag (s : State) (d m n : Nat) : (s.dmaToDmem d m n).rsp.delayFlag = s.rsp.delayFlag := rfl
@[simp] theorem State.dmaToDmem_rsp_pendingTarget (s : State) (d m n : Nat) : (s.dmaToDmem d m n).rsp.pendingTarget = s.rsp.pendingTarget := rfl
@[simp] theorem State.dmaToDmem_rsp_v (s : State) (d m n : Nat) : (s.dmaToDmem d m n).rsp.v = s.rsp.v := rfl
@[simp] theorem State.dmaToDmem_rsp_run (s : State) (d m n : Nat) : (s.dmaToDmem d m n).rsp.run = s.rsp.run := rfl
@[simp] theorem State.dmaToDmem_rsp_imem (s : State) (d m n : Nat) : (s.dmaToDmem d m n).rsp.imem = s.rsp.imem := rfl
@[simp] theorem State.dmaToDmem_rsp_memAddr (s : State) (d m n : Nat) : (s.dmaToDmem d m n).rsp.memAddr = s.rsp.memAddr := rfl
@[simp] theorem State.dmaToDmem_rsp_dramAddr (s : State) (d m n : Nat) : (s.dmaToDmem d m n).rsp.dramAddr = s.rsp.dramAddr := rfl

/-! #### enqueue -/

@[simp] theorem State.enqueue_cpu (s : State) (w : Word) : (s.enqueue w).cpu = s.cpu := rfl
@[simp] theorem State.enqueue_rsp (s : State) (w : Word) : (s.enqueue w).rsp = s.rsp := rfl
@[simp] theorem State.enqueue_rdram (s : State) (w : Word) : (s.enqueue w).rdram = s.rdram := rfl
@[simp] theorem State.enqueue_params (s : State) (w : Word) : (s.enqueue w).params = s.params := rfl
@[simp] theorem State.enqueue_bank (s : State) (w : Word) : (s.enqueue w).bank = s.bank := rfl
@[simp] theorem State.enqueue_cart (s : State) (w : Word) : (s.enqueue w).cart = s.cart := rfl
@[simp] theorem State.enqueue_calls (s : State) (w : Word) : (s.enqueue w).calls = s.calls := rfl
@[simp] theorem State.enqueue_reply (s : State) (w : Word) : (s.enqueue w).reply = s.reply := rfl
@[simp] theorem State.enqueue_rdp_queue (s : State) (w : Word) :
    (s.enqueue w).rdp.queue = s.rdp.queue ++ [w] := rfl
@[simp] theorem State.enqueue_rdp_render (s : State) (w : Word) : (s.enqueue w).rdp.render = s.rdp.render := rfl
@[simp] theorem State.enqueue_rdp_fb (s : State) (w : Word) : (s.enqueue w).rdp.fb = s.rdp.fb := rfl
@[simp] theorem State.enqueue_rdp_dpcStart (s : State) (w : Word) : (s.enqueue w).rdp.dpcStart = s.rdp.dpcStart := rfl

/-! #### enqueueAll -/

@[simp] theorem State.enqueueAll_cpu (s : State) (ws : List Word) : (s.enqueueAll ws).cpu = s.cpu := rfl
@[simp] theorem State.enqueueAll_rsp (s : State) (ws : List Word) : (s.enqueueAll ws).rsp = s.rsp := rfl
@[simp] theorem State.enqueueAll_rdram (s : State) (ws : List Word) : (s.enqueueAll ws).rdram = s.rdram := rfl
@[simp] theorem State.enqueueAll_params (s : State) (ws : List Word) : (s.enqueueAll ws).params = s.params := rfl
@[simp] theorem State.enqueueAll_bank (s : State) (ws : List Word) : (s.enqueueAll ws).bank = s.bank := rfl
@[simp] theorem State.enqueueAll_cart (s : State) (ws : List Word) : (s.enqueueAll ws).cart = s.cart := rfl
@[simp] theorem State.enqueueAll_calls (s : State) (ws : List Word) : (s.enqueueAll ws).calls = s.calls := rfl
@[simp] theorem State.enqueueAll_reply (s : State) (ws : List Word) : (s.enqueueAll ws).reply = s.reply := rfl
@[simp] theorem State.enqueueAll_rdp_queue (s : State) (ws : List Word) :
    (s.enqueueAll ws).rdp.queue = s.rdp.queue ++ ws := rfl
@[simp] theorem State.enqueueAll_rdp_render (s : State) (ws : List Word) : (s.enqueueAll ws).rdp.render = s.rdp.render := rfl
@[simp] theorem State.enqueueAll_rdp_fb (s : State) (ws : List Word) : (s.enqueueAll ws).rdp.fb = s.rdp.fb := rfl
@[simp] theorem State.enqueueAll_rdp_dpcStart (s : State) (ws : List Word) : (s.enqueueAll ws).rdp.dpcStart = s.rdp.dpcStart := rfl

/-! #### setQueue -/

@[simp] theorem State.setQueue_cpu (s : State) (q : List Word) : (s.setQueue q).cpu = s.cpu := rfl
@[simp] theorem State.setQueue_rsp (s : State) (q : List Word) : (s.setQueue q).rsp = s.rsp := rfl
@[simp] theorem State.setQueue_rdram (s : State) (q : List Word) : (s.setQueue q).rdram = s.rdram := rfl
@[simp] theorem State.setQueue_params (s : State) (q : List Word) : (s.setQueue q).params = s.params := rfl
@[simp] theorem State.setQueue_bank (s : State) (q : List Word) : (s.setQueue q).bank = s.bank := rfl
@[simp] theorem State.setQueue_cart (s : State) (q : List Word) : (s.setQueue q).cart = s.cart := rfl
@[simp] theorem State.setQueue_calls (s : State) (q : List Word) : (s.setQueue q).calls = s.calls := rfl
@[simp] theorem State.setQueue_reply (s : State) (q : List Word) : (s.setQueue q).reply = s.reply := rfl
@[simp] theorem State.setQueue_rdp_queue (s : State) (q : List Word) :
    (s.setQueue q).rdp.queue = q := rfl
@[simp] theorem State.setQueue_rdp_render (s : State) (q : List Word) : (s.setQueue q).rdp.render = s.rdp.render := rfl
@[simp] theorem State.setQueue_rdp_fb (s : State) (q : List Word) : (s.setQueue q).rdp.fb = s.rdp.fb := rfl
@[simp] theorem State.setQueue_rdp_dpcStart (s : State) (q : List Word) : (s.setQueue q).rdp.dpcStart = s.rdp.dpcStart := rfl

/-! #### setRender -/

@[simp] theorem State.setRender_cpu (s : State) (r : RenderState) : (s.setRender r).cpu = s.cpu := rfl
@[simp] theorem State.setRender_rsp (s : State) (r : RenderState) : (s.setRender r).rsp = s.rsp := rfl
@[simp] theorem State.setRender_rdram (s : State) (r : RenderState) : (s.setRender r).rdram = s.rdram := rfl
@[simp] theorem State.setRender_params (s : State) (r : RenderState) : (s.setRender r).params = s.params := rfl
@[simp] theorem State.setRender_bank (s : State) (r : RenderState) : (s.setRender r).bank = s.bank := rfl
@[simp] theorem State.setRender_cart (s : State) (r : RenderState) : (s.setRender r).cart = s.cart := rfl
@[simp] theorem State.setRender_calls (s : State) (r : RenderState) : (s.setRender r).calls = s.calls := rfl
@[simp] theorem State.setRender_reply (s : State) (r : RenderState) : (s.setRender r).reply = s.reply := rfl
@[simp] theorem State.setRender_rdp_queue (s : State) (r : RenderState) : (s.setRender r).rdp.queue = s.rdp.queue := rfl
@[simp] theorem State.setRender_rdp_render (s : State) (r : RenderState) :
    (s.setRender r).rdp.render = r := rfl
@[simp] theorem State.setRender_rdp_fb (s : State) (r : RenderState) : (s.setRender r).rdp.fb = s.rdp.fb := rfl
@[simp] theorem State.setRender_rdp_dpcStart (s : State) (r : RenderState) : (s.setRender r).rdp.dpcStart = s.rdp.dpcStart := rfl

/-! #### setFb -/

@[simp] theorem State.setFb_cpu (s : State) (fb : Pixels) : (s.setFb fb).cpu = s.cpu := rfl
@[simp] theorem State.setFb_rsp (s : State) (fb : Pixels) : (s.setFb fb).rsp = s.rsp := rfl
@[simp] theorem State.setFb_rdram (s : State) (fb : Pixels) : (s.setFb fb).rdram = s.rdram := rfl
@[simp] theorem State.setFb_params (s : State) (fb : Pixels) : (s.setFb fb).params = s.params := rfl
@[simp] theorem State.setFb_bank (s : State) (fb : Pixels) : (s.setFb fb).bank = s.bank := rfl
@[simp] theorem State.setFb_cart (s : State) (fb : Pixels) : (s.setFb fb).cart = s.cart := rfl
@[simp] theorem State.setFb_calls (s : State) (fb : Pixels) : (s.setFb fb).calls = s.calls := rfl
@[simp] theorem State.setFb_reply (s : State) (fb : Pixels) : (s.setFb fb).reply = s.reply := rfl
@[simp] theorem State.setFb_rdp_queue (s : State) (fb : Pixels) : (s.setFb fb).rdp.queue = s.rdp.queue := rfl
@[simp] theorem State.setFb_rdp_render (s : State) (fb : Pixels) : (s.setFb fb).rdp.render = s.rdp.render := rfl
@[simp] theorem State.setFb_rdp_fb (s : State) (fb : Pixels) :
    (s.setFb fb).rdp.fb = fb := rfl
@[simp] theorem State.setFb_rdp_dpcStart (s : State) (fb : Pixels) : (s.setFb fb).rdp.dpcStart = s.rdp.dpcStart := rfl

/-! #### rdramWriteByte -/

@[simp] theorem State.rdramWriteByte_cpu (s : State) (a : Nat) (b : Byte) : (s.rdramWriteByte a b).cpu = s.cpu := rfl
@[simp] theorem State.rdramWriteByte_rsp (s : State) (a : Nat) (b : Byte) : (s.rdramWriteByte a b).rsp = s.rsp := rfl
@[simp] theorem State.rdramWriteByte_rdp (s : State) (a : Nat) (b : Byte) : (s.rdramWriteByte a b).rdp = s.rdp := rfl
@[simp] theorem State.rdramWriteByte_params (s : State) (a : Nat) (b : Byte) : (s.rdramWriteByte a b).params = s.params := rfl
@[simp] theorem State.rdramWriteByte_bank (s : State) (a : Nat) (b : Byte) : (s.rdramWriteByte a b).bank = s.bank := rfl
@[simp] theorem State.rdramWriteByte_cart (s : State) (a : Nat) (b : Byte) : (s.rdramWriteByte a b).cart = s.cart := rfl
@[simp] theorem State.rdramWriteByte_calls (s : State) (a : Nat) (b : Byte) : (s.rdramWriteByte a b).calls = s.calls := rfl
@[simp] theorem State.rdramWriteByte_reply (s : State) (a : Nat) (b : Byte) : (s.rdramWriteByte a b).reply = s.reply := rfl
@[simp] theorem State.rdramWriteByte_rdram (s : State) (a : Nat) (b : Byte) : (s.rdramWriteByte a b).rdram = Store.poke s.rdram s.params.rdramSize a b := rfl

/-! #### dmaFromDmem -/

@[simp] theorem State.dmaFromDmem_cpu (s : State) (d m n : Nat) : (s.dmaFromDmem d m n).cpu = s.cpu := rfl
@[simp] theorem State.dmaFromDmem_rsp (s : State) (d m n : Nat) : (s.dmaFromDmem d m n).rsp = s.rsp := rfl
@[simp] theorem State.dmaFromDmem_rdp (s : State) (d m n : Nat) : (s.dmaFromDmem d m n).rdp = s.rdp := rfl
@[simp] theorem State.dmaFromDmem_params (s : State) (d m n : Nat) : (s.dmaFromDmem d m n).params = s.params := rfl
@[simp] theorem State.dmaFromDmem_bank (s : State) (d m n : Nat) : (s.dmaFromDmem d m n).bank = s.bank := rfl
@[simp] theorem State.dmaFromDmem_cart (s : State) (d m n : Nat) : (s.dmaFromDmem d m n).cart = s.cart := rfl
@[simp] theorem State.dmaFromDmem_calls (s : State) (d m n : Nat) : (s.dmaFromDmem d m n).calls = s.calls := rfl
@[simp] theorem State.dmaFromDmem_reply (s : State) (d m n : Nat) : (s.dmaFromDmem d m n).reply = s.reply := rfl

/-! #### saveWrite -/

@[simp] theorem State.saveWrite_cpu (s : State) (off : Nat) (n : Access) (v : Word) : (s.saveWrite off n v).cpu = s.cpu := rfl
@[simp] theorem State.saveWrite_rsp (s : State) (off : Nat) (n : Access) (v : Word) : (s.saveWrite off n v).rsp = s.rsp := rfl
@[simp] theorem State.saveWrite_rdp (s : State) (off : Nat) (n : Access) (v : Word) : (s.saveWrite off n v).rdp = s.rdp := rfl
@[simp] theorem State.saveWrite_rdram (s : State) (off : Nat) (n : Access) (v : Word) : (s.saveWrite off n v).rdram = s.rdram := rfl
@[simp] theorem State.saveWrite_params (s : State) (off : Nat) (n : Access) (v : Word) : (s.saveWrite off n v).params = s.params := rfl
@[simp] theorem State.saveWrite_bank (s : State) (off : Nat) (n : Access) (v : Word) : (s.saveWrite off n v).bank = s.bank := rfl
@[simp] theorem State.saveWrite_calls (s : State) (off : Nat) (n : Access) (v : Word) : (s.saveWrite off n v).calls = s.calls := rfl
@[simp] theorem State.saveWrite_reply (s : State) (off : Nat) (n : Access) (v : Word) : (s.saveWrite off n v).reply = s.reply := rfl
@[simp] theorem State.saveWrite_cart (s : State) (off : Nat) (n : Access) (v : Word) : (s.saveWrite off n v).cart = 
    s.cart.map fun c => c.saveWrite s.saveSize off n v := rfl

/-! #### setReply -/

@[simp] theorem State.setReply_cpu (s : State) (r : Reply) : (s.setReply r).cpu = s.cpu := rfl
@[simp] theorem State.setReply_rsp (s : State) (r : Reply) : (s.setReply r).rsp = s.rsp := rfl
@[simp] theorem State.setReply_rdp (s : State) (r : Reply) : (s.setReply r).rdp = s.rdp := rfl
@[simp] theorem State.setReply_rdram (s : State) (r : Reply) : (s.setReply r).rdram = s.rdram := rfl
@[simp] theorem State.setReply_params (s : State) (r : Reply) : (s.setReply r).params = s.params := rfl
@[simp] theorem State.setReply_bank (s : State) (r : Reply) : (s.setReply r).bank = s.bank := rfl
@[simp] theorem State.setReply_cart (s : State) (r : Reply) : (s.setReply r).cart = s.cart := rfl
@[simp] theorem State.setReply_calls (s : State) (r : Reply) : (s.setReply r).calls = s.calls := rfl
@[simp] theorem State.setReply_reply (s : State) (r : Reply) : (s.setReply r).reply = r := rfl

end Sys2Proof.Machine
end

