-- ==== Sys2Proof/Laws/Ops.lean ====
section
/-! SUPPORT. What each named operation does, said once: registers, the end of a step, exceptions. -/

namespace Sys2Proof.Machine

/-! ### Registers -/

@[simp] theorem regRead_zero (f : Vector (BitVec w) 32) : regRead f 0#5 = 0#w := by simp [regRead]

theorem regRead_regWrite_same (f : Vector (BitVec w) 32) (r : Reg) (v : BitVec w) :
    regRead (regWrite f r v) r = if r = 0#5 then 0#w else v := by
  unfold regRead regWrite
  by_cases h : r = 0#5 <;> simp [h]

theorem regRead_regWrite_other (f : Vector (BitVec w) 32) {r q : Reg} (v : BitVec w) (h : q ≠ r) :
    regRead (regWrite f r v) q = regRead f q := by
  have hn : r.toNat ≠ q.toNat := fun e => h (BitVec.eq_of_toNat_eq e.symm)
  unfold regRead regWrite
  simp [hn]

@[simp] theorem State.getX_setX_same (s : State) (r : Reg) (v : DWord) :
    (s.setX r v).getX r = if r = 0#5 then 0#64 else v := regRead_regWrite_same _ _ _

theorem State.getX_setX_other (s : State) {r q : Reg} (v : DWord) (h : q ≠ r) :
    (s.setX r v).getX q = s.getX q := regRead_regWrite_other _ _ h

@[simp] theorem State.getR_setR_same (s : State) (r : Reg) (v : Word) :
    (s.setR r v).getR r = if r = 0#5 then 0#32 else v := regRead_regWrite_same _ _ _

theorem State.getR_setR_other (s : State) {r q : Reg} (v : Word) (h : q ≠ r) :
    (s.setR r v).getR q = s.getR q := regRead_regWrite_other _ _ h

@[simp] theorem State.getX_zero (s : State) : s.getX 0#5 = 0#64 := regRead_zero _

@[simp] theorem State.getR_zero (s : State) : s.getR 0#5 = 0#32 := regRead_zero _

@[simp] theorem State.getC0_setC0_same (s : State) (r : Reg) (v : Word) : (s.setC0 r v).getC0 r = v := by
  simp [State.getC0, State.setC0]

theorem State.getC0_setC0_other (s : State) {r q : Reg} (v : Word) (h : q ≠ r) :
    (s.setC0 r v).getC0 q = s.getC0 q := by
  have hn : r.toNat ≠ q.toNat := fun e => h (BitVec.eq_of_toNat_eq e.symm)
  simp [State.getC0, State.setC0, hn]

@[simp] theorem State.getV_setV_same (s : State) (r : Reg) (l : Vector Lane 8) : (s.setV r l).getV r = l := by
  simp [State.getV, State.setV]

theorem State.getV_setV_other (s : State) {r q : Reg} (l : Vector Lane 8) (h : q ≠ r) :
    (s.setV r l).getV q = s.getV q := by
  have hn : r.toNat ≠ q.toNat := fun e => h (BitVec.eq_of_toNat_eq e.symm)
  simp [State.getV, State.setV, hn]

/-- Reading registers looks at the register file alone. -/
theorem State.getX_congr {s t : State} (h : t.cpu.x = s.cpu.x) (r : Reg) : t.getX r = s.getX r := by
  simp [State.getX, h]

theorem State.getR_congr {s t : State} (h : t.rsp.x = s.rsp.x) (r : Reg) : t.getR r = s.getR r := by
  simp [State.getR, h]

theorem State.getV_congr {s t : State} (h : t.rsp.v = s.rsp.v) (r : Reg) : t.getV r = s.getV r := by
  simp [State.getV, h]

theorem State.getC0_congr {s t : State} (h : t.cpu.cop0 = s.cpu.cop0) (r : Reg) : t.getC0 r = s.getC0 r := by
  simp [State.getC0, h]

/-! ### Reads of the bus look at memory, the register windows and the Cartridge alone -/

theorem State.saveSize_congr {s t : State} (h0 : t.params = s.params) (h : t.cart = s.cart) : t.saveSize = s.saveSize := by
  unfold State.saveSize
  rw [h0, h]

theorem State.region_congr {s t : State} (h0 : t.params = s.params) (h : t.cart = s.cart) (pa : Nat) :
    t.region pa = s.region pa := by
  unfold State.region
  rw [State.saveSize_congr h0 h, h0, h]

theorem State.memRead_congr {s t : State} (h0 : t.params = s.params) (h1 : t.rdram = s.rdram) (h2 : t.rsp = s.rsp)
    (h3 : t.rdp.dpcStart = s.rdp.dpcStart) (h4 : t.bank = s.bank) (h5 : t.cart = s.cart) (a : Word) (n : Access) :
    t.memRead a n = s.memRead a n := by
  unfold State.memRead
  rw [State.region_congr h0 h5]
  cases s.region (physAddr a) <;>
    simp only [State.rdramReadByte, State.readBusReg, State.saveRead, State.romRead, State.saveSize_congr h0 h5, h0, h1,
      h2, h3, h4, h5]

/-- A byte read of the bus does not even look at the register windows. -/
theorem State.memRead_byte_congr {s t : State} (h0 : t.params = s.params) (h1 : t.rdram = s.rdram) (h2 : t.rsp.dmem = s.rsp.dmem)
    (h3 : t.rsp.imem = s.rsp.imem) (h4 : t.bank = s.bank) (h5 : t.cart = s.cart) (a : Word) :
    t.memRead a .byte = s.memRead a .byte := by
  unfold State.memRead
  rw [State.region_congr h0 h5]
  cases s.region (physAddr a) <;>
    simp only [State.rdramReadByte, State.saveRead, State.romRead, State.saveSize_congr h0 h5, h0, h1, h2, h3, h4, h5]

/-- A state that differs in its CPU alone is the same outside it. -/
theorem SameOutsideCpu.of_eq {s t : State} (h0 : t.params = s.params) (h1 : t.rsp = s.rsp) (h2 : t.rdp = s.rdp) (h3 : t.rdram = s.rdram)
    (h4 : t.bank = s.bank) (h5 : t.cart = s.cart) (h6 : t.calls = s.calls) (h7 : t.reply = s.reply) :
    SameOutsideCpu s t :=
  ⟨h0, h1, h2, h3, h4, h5, h6, h7, fun a => State.memRead_congr h0 h3 h1 (by rw [h2]) h4 h5 a .byte⟩

/-! ### The end of a step -/

theorem State.retireIf_true (s : State) (t : Word) : s.retireIf true t = (s.branch t).advance true := rfl

theorem State.retireIf_false (s : State) (t : Word) : s.retireIf false t = s.retire := rfl

theorem State.rspRetireIf_true (s : State) (t : Local) : s.rspRetireIf true t = (s.rspBranch t).rspAdvance true := rfl

theorem State.rspRetireIf_false (s : State) (t : Local) : s.rspRetireIf false t = s.rspRetire := rfl

theorem State.retireIf_params (s : State) (c : Bool) (t : Word) : (s.retireIf c t).params = s.params := by
  cases c <;> rfl

theorem State.rspRetireIf_params (s : State) (c : Bool) (t : Local) : (s.rspRetireIf c t).params = s.params := by
  cases c <;> rfl

theorem advanced_retire (s : State) : Advanced s s.retire :=
  ⟨rfl, by simp, rfl⟩

theorem branched_advance (s : State) (t : Word) : Branched s ((s.branch t).advance true) t :=
  ⟨rfl, rfl, by simp⟩

theorem rspAdvanced_retire (s : State) : RspAdvanced s s.rspRetire :=
  ⟨rfl, by simp, rfl⟩

theorem rspBranched_advance (s : State) (t : Local) : RspBranched s ((s.rspBranch t).rspAdvance true) t :=
  ⟨rfl, rfl, by simp⟩

/-- Everything a register write and an advance do: the conclusion that most CPU statements have. -/
theorem writesX_of_exec {i : Instr} {s : State} {rd : Reg} {v : DWord}
    (h : exec i s = .next (s.setX rd v).retire) : WritesX i s rd v := by
  refine ⟨_, h, ⟨State.getX_setX_same s rd v, fun r hr => State.getX_setX_other s v hr⟩, ⟨rfl, rfl, rfl, rfl, rfl, rfl⟩,
    ⟨rfl, by simp, rfl⟩, SameOutsideCpu.of_eq rfl rfl rfl rfl rfl rfl rfl rfl⟩

/-- Everything a write of HI and LO and an advance do. -/
theorem writesHiLo_of_exec {i : Instr} {s : State} {hi lo : DWord}
    (h : exec i s = .next ((s.setLo lo).setHi hi).retire) : WritesHiLo i s hi lo :=
  ⟨_, h, rfl, rfl, fun _ => rfl, rfl, rfl, rfl, rfl, ⟨rfl, by simp, rfl⟩,
    SameOutsideCpu.of_eq rfl rfl rfl rfl rfl rfl rfl rfl⟩

/-- Everything a branch does. -/
theorem branches_of_exec {i : Instr} {s : State} {c : Bool} {target : Word} {taken : Prop} (hc : c = true ↔ taken)
    (h : exec i s = .next (s.retireIf c target)) : Branches i s taken target := by
  refine ⟨_, h, fun ht => ?_, fun hn => ?_, ?_, ?_, ?_⟩
  · rw [hc.2 ht]
    exact branched_advance s target
  · have : c = false := by
      rw [Bool.eq_false_iff]
      exact fun e => hn (hc.1 e)
    rw [this]
    exact advanced_retire s
  · cases c <;> exact fun _ => rfl
  · cases c <;> exact ⟨rfl, rfl, rfl, rfl, rfl, rfl⟩
  · cases c <;> exact SameOutsideCpu.of_eq rfl rfl rfl rfl rfl rfl rfl rfl

/-! ### The slots that exception entry and return write -/

theorem State.enterException_epc (s : State) (c : ExcCode) : (s.enterException c).getC0 14#5 = s.faultPc := by
  show State.getC0 (((s.setC0 14#5 _).setC0 13#5 _).setC0 12#5 _) 14#5 = _
  rw [State.getC0_setC0_other _ _ (by decide), State.getC0_setC0_other _ _ (by decide), State.getC0_setC0_same]

theorem State.enterException_cause (s : State) (c : ExcCode) :
    (s.enterException c).getC0 13#5 = causeEntry s.cause s.cpu.delayFlag c := by
  show State.getC0 (((s.setC0 14#5 _).setC0 13#5 _).setC0 12#5 _) 13#5 = _
  rw [State.getC0_setC0_other _ _ (by decide), State.getC0_setC0_same]

theorem State.enterException_status (s : State) (c : ExcCode) :
    (s.enterException c).getC0 12#5 = statusSetEl s.status := by
  show State.getC0 (((s.setC0 14#5 _).setC0 13#5 _).setC0 12#5 _) 12#5 = _
  rw [State.getC0_setC0_same]

theorem State.enterException_slot (s : State) (c : ExcCode) {r : Reg} (h12 : r ≠ 12#5) (h13 : r ≠ 13#5)
    (h14 : r ≠ 14#5) : (s.enterException c).getC0 r = s.getC0 r := by
  show State.getC0 (((s.setC0 14#5 _).setC0 13#5 _).setC0 12#5 _) r = _
  rw [State.getC0_setC0_other _ _ h12, State.getC0_setC0_other _ _ h13, State.getC0_setC0_other _ _ h14]

theorem State.returnFromException_status (s : State) :
    s.returnFromException.getC0 12#5 = statusClearEl s.status := by
  show State.getC0 (s.setC0 12#5 _) 12#5 = _
  rw [State.getC0_setC0_same]

theorem State.returnFromException_slot (s : State) {r : Reg} (h : r ≠ 12#5) :
    s.returnFromException.getC0 r = s.getC0 r := by
  show State.getC0 (s.setC0 12#5 _) r = _
  rw [State.getC0_setC0_other _ _ h]

/-- The link value in arithmetic (42 R273). -/
theorem wordResult_toInt (w : Word) : wordResult w.toInt = w.signExtend 64 := by
  apply BitVec.eq_of_toInt_eq
  rw [wordResult, BitVec.toInt_ofInt, BitVec.toInt_signExtend_of_le (by omega)]
  have := BitVec.toInt_lt (x := w)
  have := BitVec.le_toInt (x := w)
  rw [show w.toInt.bmod (2 ^ 32) = w.toInt by
    rw [Int.bmod_eq_of_le] <;> omega]
  rw [Int.bmod_eq_of_le] <;> omega

end Sys2Proof.Machine
end

