-- ==== Sys2Proof/Laws/Store.lean ====
section
/-! SUPPORT. What each operation of a store does: reads after writes, and that the canonical form and the bound on the keys
are kept. -/

namespace Sys2Proof.Machine

/-! ### Reads -/

@[simp] theorem Store.get_nil (a : Nat) : Store.get ([] : List (Nat × BitVec w)) a = 0#w := rfl

theorem Store.get_eq_zero {m : List (Nat × BitVec w)} {a : Nat} (h : ∀ c ∈ m, c.1 ≠ a) : Store.get m a = 0#w := by
  induction m with
  | nil => rfl
  | cons c m ih =>
    simp only [List.mem_cons, forall_eq_or_imp] at h
    rw [Store.get, if_neg h.1, ih h.2]

theorem Store.get_insert_same {m : List (Nat × BitVec w)} {a : Nat} (v : BitVec w) (h : ∀ c ∈ m, c.1 ≠ a) :
    Store.get (Store.insert m a v) a = v := by
  induction m with
  | nil => simp [Store.insert, Store.get]
  | cons c m ih =>
    simp only [List.mem_cons, forall_eq_or_imp] at h
    rw [Store.insert]
    split
    · rw [Store.get, if_neg h.1, ih h.2]
    · rw [Store.get, if_pos rfl]

theorem Store.get_insert_other {m : List (Nat × BitVec w)} {a b : Nat} (v : BitVec w) (h : b ≠ a) :
    Store.get (Store.insert m a v) b = Store.get m b := by
  induction m with
  | nil => simp [Store.insert, Store.get, h.symm]
  | cons c m ih =>
    rw [Store.insert]
    split
    · rw [Store.get, Store.get, ih]
    · rw [Store.get, if_neg (by simpa using h.symm)]

theorem Store.get_erase_same (m : List (Nat × BitVec w)) (a : Nat) : Store.get (Store.erase m a) a = 0#w := by
  apply Store.get_eq_zero
  simp [Store.erase]

theorem Store.get_erase_other {m : List (Nat × BitVec w)} {a b : Nat} (h : b ≠ a) :
    Store.get (Store.erase m a) b = Store.get m b := by
  induction m with
  | nil => rfl
  | cons c m ih =>
    rw [Store.erase, List.filter_cons]
    split
    · rw [Store.get, Store.get]
      split
      · rfl
      · exact ih
    · rename_i hc
      have hc : c.1 = a := by simpa using hc
      rw [Store.get, if_neg (by omega)]
      exact ih

/-- Read after write at the same key. -/
@[simp] theorem Store.get_put_same (m : List (Nat × BitVec w)) (a : Nat) (v : BitVec w) :
    Store.get (Store.put m a v) a = v := by
  rw [Store.put]
  split
  · rename_i h
    rw [h, Store.get_erase_same]
  · apply Store.get_insert_same
    simp [Store.erase]

/-- A write leaves every other key alone. -/
theorem Store.get_put_other {m : List (Nat × BitVec w)} {a b : Nat} (v : BitVec w) (h : b ≠ a) :
    Store.get (Store.put m a v) b = Store.get m b := by
  rw [Store.put]
  split
  · exact Store.get_erase_other h
  · rw [Store.get_insert_other v h, Store.get_erase_other h]

theorem Store.get_put (m : List (Nat × BitVec w)) (a b : Nat) (v : BitVec w) :
    Store.get (Store.put m a v) b = if b = a then v else Store.get m b := by
  split
  · rename_i h
    rw [h, Store.get_put_same]
  · rename_i h
    exact Store.get_put_other v h

theorem Store.peek_poke (m : List (Nat × BitVec w)) (size a b : Nat) (v : BitVec w) :
    Store.peek (Store.poke m size a v) size b = if b = a ∧ b < size then v else Store.peek m size b := by
  unfold Store.peek Store.poke
  by_cases ha : a < size
  · rw [if_pos ha, Store.get_put]
    by_cases hab : b = a
    · subst hab
      simp [ha]
    · simp [hab]
  · rw [if_neg ha]
    by_cases hb : b < size <;> by_cases hab : b = a <;> simp [hb, hab] <;> omega

theorem Store.get_poke (m : List (Nat × BitVec w)) (size a b : Nat) (v : BitVec w) :
    Store.get (Store.poke m size a v) b = if b = a ∧ a < size then v else Store.get m b := by
  unfold Store.poke
  by_cases ha : a < size
  · rw [if_pos ha, Store.get_put]
    simp [ha]
  · simp [ha]

/-! ### The canonical form and the bound -/

theorem Store.canonical_nil : Store.Canonical ([] : List (Nat × BitVec w)) :=
  ⟨List.Pairwise.nil, fun _ hc => nomatch hc⟩

theorem Store.below_nil (n : Nat) : Store.Below ([] : List (Nat × BitVec w)) n := by simp

theorem Store.mem_insert {m : List (Nat × BitVec w)} {a : Nat} {v : BitVec w} {c : Nat × BitVec w}
    (h : c ∈ Store.insert m a v) : c = (a, v) ∨ c ∈ m := by
  induction m with
  | nil => simpa [Store.insert] using h
  | cons d m ih =>
    rw [Store.insert] at h
    split at h
    · rcases List.mem_cons.1 h with h | h
      · exact .inr (h ▸ List.mem_cons_self)
      · rcases ih h with h | h
        · exact .inl h
        · exact .inr (List.mem_cons_of_mem _ h)
    · rcases List.mem_cons.1 h with h | h
      · exact .inl h
      · exact .inr h

theorem Store.canonical_filter {m : List (Nat × BitVec w)} (p : Nat × BitVec w → Bool) (h : Store.Canonical m) :
    Store.Canonical (m.filter p) :=
  ⟨h.1.filter _, fun c hc => h.2 c (List.mem_of_mem_filter hc)⟩

theorem Store.canonical_insert {m : List (Nat × BitVec w)} {a : Nat} {v : BitVec w} (h : Store.Canonical m)
    (ha : ∀ c ∈ m, c.1 ≠ a) (hv : v ≠ 0#w) : Store.Canonical (Store.insert m a v) := by
  refine ⟨?_, fun c hc => ?_⟩
  · induction m with
    | nil => simp [Store.insert]
    | cons d m ih =>
      simp only [List.mem_cons, forall_eq_or_imp] at ha
      obtain ⟨hp, hz⟩ := h
      rw [List.pairwise_cons] at hp
      rw [Store.insert]
      split
      · rename_i hlt
        refine List.pairwise_cons.2 ⟨fun c hc => ?_, ih ⟨hp.2, fun c hc => hz c (List.mem_cons_of_mem _ hc)⟩ ha.2⟩
        rcases Store.mem_insert hc with h | h
        · rw [h]
          exact hlt
        · exact hp.1 c h
      · refine List.pairwise_cons.2 ⟨fun c hc => ?_, List.pairwise_cons.2 hp⟩
        have hd : a < d.1 := by
          have := ha.1
          omega
        rcases List.mem_cons.1 hc with h | h
        · rw [h]
          exact hd
        · exact Nat.lt_trans hd (hp.1 c h)
  · rcases Store.mem_insert hc with h' | h'
    · rw [h']
      exact hv
    · exact h.2 c h'

theorem Store.canonical_put {m : List (Nat × BitVec w)} (a : Nat) (v : BitVec w) (h : Store.Canonical m) :
    Store.Canonical (Store.put m a v) := by
  rw [Store.put]
  split
  · exact Store.canonical_filter _ h
  · rename_i hv
    exact Store.canonical_insert (Store.canonical_filter _ h) (by simp [Store.erase]) hv

theorem Store.canonical_poke {m : List (Nat × BitVec w)} (size a : Nat) (v : BitVec w) (h : Store.Canonical m) :
    Store.Canonical (Store.poke m size a v) := by
  rw [Store.poke]
  split
  · exact Store.canonical_put a v h
  · exact h

theorem Store.below_filter {m : List (Nat × BitVec w)} {n : Nat} (p : Nat × BitVec w → Bool) (h : Store.Below m n) :
    Store.Below (m.filter p) n :=
  fun c hc => h c (List.mem_of_mem_filter hc)

theorem Store.below_put {m : List (Nat × BitVec w)} {n a : Nat} (v : BitVec w) (h : Store.Below m n) (ha : a < n) :
    Store.Below (Store.put m a v) n := by
  rw [Store.put]
  split
  · exact Store.below_filter _ h
  · intro c hc
    rcases Store.mem_insert hc with h' | h'
    · rw [h']
      exact ha
    · exact Store.below_filter _ h c h'

theorem Store.below_poke {m : List (Nat × BitVec w)} {n : Nat} (a : Nat) (v : BitVec w) (h : Store.Below m n) :
    Store.Below (Store.poke m n a v) n := by
  rw [Store.poke]
  split
  · rename_i ha
    exact Store.below_put v h ha
  · exact h

/-- A store with both properties, as the invariant has it. -/
theorem Store.ok_poke {m : List (Nat × BitVec w)} {n : Nat} (a : Nat) (v : BitVec w)
    (h : Store.Canonical m ∧ Store.Below m n) :
    Store.Canonical (Store.poke m n a v) ∧ Store.Below (Store.poke m n a v) n :=
  ⟨Store.canonical_poke n a v h.1, Store.below_poke a v h.2⟩

theorem Store.ok_put {m : List (Nat × BitVec w)} {n a : Nat} (v : BitVec w)
    (h : Store.Canonical m ∧ Store.Below m n) (ha : a < n) :
    Store.Canonical (Store.put m a v) ∧ Store.Below (Store.put m a v) n :=
  ⟨Store.canonical_put a v h.1, Store.below_put v h.2 ha⟩

/-- Whatever a fold's steps keep, the fold keeps. -/
theorem foldl_keeps {α β : Type} {P : α → Prop} (f : α → β → α) (l : List β) (x : α) (h : P x)
    (hf : ∀ y b, b ∈ l → P y → P (f y b)) : P (l.foldl f x) := by
  induction l generalizing x with
  | nil => exact h
  | cons b l ih =>
    exact ih (f x b) (hf x b List.mem_cons_self h) fun y c hc => hf y c (List.mem_cons_of_mem _ hc)

theorem ok_writeBytes {m : Memory} {size : Nat} (loc : Nat → Nat) (n : Nat) (v : Word)
    (h : Store.Canonical m ∧ Store.Below m size) :
    Store.Canonical (writeBytes m size loc n v) ∧ Store.Below (writeBytes m size loc n v) size :=
  foldl_keeps (P := fun m => Store.Canonical m ∧ Store.Below m size) _ _ m h fun _ _ _ hy => Store.ok_poke _ _ hy

/-! ### A list of bytes as a store -/

theorem Store.le_of_mem_ofBytes {a : Nat} {bs : List Byte} {c : Nat × Byte} (h : c ∈ Store.ofBytes a bs) :
    a ≤ c.1 ∧ c.1 < a + bs.length := by
  induction bs generalizing a with
  | nil => simp [Store.ofBytes] at h
  | cons b bs ih =>
    rw [Store.ofBytes] at h
    split at h
    · have := ih h
      simp only [List.length_cons]
      omega
    · rcases List.mem_cons.1 h with h | h
      · rw [h]
        simp
      · have := ih h
        simp only [List.length_cons]
        omega

theorem Store.ok_ofBytes (a : Nat) (bs : List Byte) :
    Store.Canonical (Store.ofBytes a bs) ∧ Store.Below (Store.ofBytes a bs) (a + bs.length) := by
  refine ⟨?_, fun c hc => (Store.le_of_mem_ofBytes hc).2⟩
  induction bs generalizing a with
  | nil => exact Store.canonical_nil
  | cons b bs ih =>
    rw [Store.ofBytes]
    split
    · exact ih (a + 1)
    · rename_i hb
      refine ⟨List.pairwise_cons.2 ⟨fun c hc => ?_, (ih (a + 1)).1⟩, fun c hc => ?_⟩
      · have := (Store.le_of_mem_ofBytes hc).1
        show a < c.1
        omega
      · rcases List.mem_cons.1 hc with h | h
        · rw [h]
          exact hb
        · exact (ih (a + 1)).2 c h

theorem Store.get_ofBytes (a k : Nat) (bs : List Byte) : Store.get (Store.ofBytes a bs) (a + k) = bs.getD k 0#8 := by
  induction bs generalizing a k with
  | nil => simp [Store.ofBytes]
  | cons b bs ih =>
    rw [Store.ofBytes]
    cases k with
    | zero =>
      split
      · rename_i hb
        rw [Store.get_eq_zero fun c hc => by have := (Store.le_of_mem_ofBytes hc).1; omega]
        simp [hb]
      · simp [Store.get]
    | succ k =>
      have h : a + (k + 1) = a + 1 + k := by omega
      split
      · rw [h, ih]
        simp
      · rw [Store.get, if_neg (by simp), h, ih]
        simp

end Sys2Proof.Machine
end

