-- ==== Sys2Proof/Laws/Memory.lean ====
section
/-! SUPPORT. Bytes of words, folds of writes, and what MemRead, MemWrite, DMEM accesses and DMA do. -/

namespace Sys2Proof.Machine

/-! ### Bytes of words -/

theorem byteOf_toNat (n : Nat) (v : Word) (i : Nat) :
    (byteOf n v i).toNat = v.toNat / 256 ^ (n - 1 - i) % 256 := by
  rw [byteOf, BitVec.toNat_setWidth, BitVec.toNat_ushiftRight, Nat.shiftRight_eq_div_pow, Nat.pow_mul]

theorem joinBytes_succ (f : Nat → Byte) (n : Nat) :
    joinBytes f (n + 1) = joinBytes f n <<< 8 ||| (f n).setWidth 32 := by
  simp [joinBytes, List.range_succ]

theorem shiftByte_toNat (x : Word) (b : Byte) (h : x.toNat < 2 ^ 24) :
    (x <<< 8 ||| b.setWidth 32).toNat = x.toNat * 256 + b.toNat := by
  have hb := b.isLt
  have h1 : (x <<< 8).toNat = x.toNat <<< 8 := by
    rw [BitVec.toNat_shiftLeft, Nat.mod_eq_of_lt]
    rw [Nat.shiftLeft_eq]
    omega
  have h2 : (b.setWidth 32).toNat = b.toNat := by
    rw [BitVec.toNat_setWidth, Nat.mod_eq_of_lt]
    omega
  rw [BitVec.toNat_or, h1, h2, ← Nat.shiftLeft_add_eq_or_of_lt hb, Nat.shiftLeft_eq]

theorem bigEndian_append (bs : List Byte) (b : Byte) : bigEndian (bs ++ [b]) = bigEndian bs * 256 + b.toNat := by
  simp [bigEndian]

/-- The bytes joined are the number they spell (20_memory R84, R87). -/
theorem joinBytes_toNat (f : Nat → Byte) (n : Nat) (h : n ≤ 4) :
    (joinBytes f n).toNat = bigEndian ((List.range n).map f) ∧ (joinBytes f n).toNat < 256 ^ n := by
  induction n with
  | zero => simp [joinBytes, bigEndian]
  | succ n ih =>
    obtain ⟨h1, h2⟩ := ih (by omega)
    have h3 : 256 ^ n ≤ 2 ^ 24 := by
      calc 256 ^ n ≤ 256 ^ 3 := Nat.pow_le_pow_right (by omega) (by omega)
        _ = 2 ^ 24 := by norm_num
    have hb := (f n).isLt
    rw [joinBytes_succ, shiftByte_toNat _ _ (by omega), List.range_succ, List.map_append, List.map_singleton,
      bigEndian_append, h1]
    refine ⟨rfl, ?_⟩
    rw [← h1, Nat.pow_succ]
    omega

theorem joinBytes_congr {f g : Nat → Byte} {n : Nat} (h : ∀ i, i < n → f i = g i) : joinBytes f n = joinBytes g n := by
  induction n with
  | zero => rfl
  | succ n ih => rw [joinBytes_succ, joinBytes_succ, ih fun i hi => h i (by omega), h n (by omega)]

theorem joinBytes_one (f : Nat → Byte) : joinBytes f 1 = (f 0).setWidth 32 := by
  rw [joinBytes_succ]
  simp [joinBytes]

/-! ### Folds of writes: the last write to a place stays, every other place is left alone -/

section Folds

variable {w : Nat} {loc : Nat → Nat} {f : List (Nat × BitVec w) → Nat → List (Nat × BitVec w)}

theorem fold_get_other (hf : ∀ m i b, b ≠ loc i → Store.get (f m i) b = Store.get m b) (m : List (Nat × BitVec w))
    (n b : Nat) (h : ∀ i, i < n → b ≠ loc i) : Store.get ((List.range n).foldl f m) b = Store.get m b := by
  induction n with
  | zero => rfl
  | succ n ih =>
    rw [List.range_succ, List.foldl_append]
    show Store.get (f _ n) b = _
    rw [hf _ _ _ (h n (by omega)), ih fun i hi => h i (by omega)]

theorem fold_get_last (hf : ∀ m i b, b ≠ loc i → Store.get (f m i) b = Store.get m b) (m : List (Nat × BitVec w))
    (n i : Nat) (v : BitVec w) (hi : i < n) (hv : ∀ m, Store.get (f m i) (loc i) = v)
    (hlast : ∀ j, i < j → j < n → loc j ≠ loc i) : Store.get ((List.range n).foldl f m) (loc i) = v := by
  induction n with
  | zero => omega
  | succ n ih =>
    rw [List.range_succ, List.foldl_append]
    show Store.get (f _ n) (loc i) = v
    by_cases h : i = n
    · rw [← h, hv]
    · rw [hf _ _ _ (hlast n (by omega) (by omega)).symm, ih (by omega) fun j h1 h2 => hlast j h1 (by omega)]

end Folds

theorem get_writeBytes_other (m : Memory) (size : Nat) (loc : Nat → Nat) (n : Nat) (v : Word) (b : Nat)
    (h : ∀ i, i < n → b ≠ loc i) : Store.get (writeBytes m size loc n v) b = Store.get m b :=
  fold_get_other (loc := loc) (fun m i b hb => by rw [Store.get_poke, if_neg (fun h => hb h.1)]) m n b h

theorem get_writeBytes_at (m : Memory) (size : Nat) (loc : Nat → Nat) (n : Nat) (v : Word) (i : Nat) (hi : i < n)
    (hs : loc i < size) (hinj : ∀ j, i < j → j < n → loc j ≠ loc i) :
    Store.get (writeBytes m size loc n v) (loc i) = byteOf n v i :=
  fold_get_last (loc := loc) (fun m i b hb => by rw [Store.get_poke, if_neg (fun h => hb h.1)]) m n i _ hi
    (fun m => by rw [Store.get_poke, if_pos ⟨rfl, hs⟩]) hinj

/-- A read of a store of `size` bytes after a write of consecutive bytes. -/
theorem peek_writeBytes (m : Memory) (size off n : Nat) (v : Word) (b : Nat) :
    Store.peek (writeBytes m size (fun i => off + i) n v) size b =
      if off ≤ b ∧ b < off + n ∧ b < size then byteOf n v (b - off) else Store.peek m size b := by
  unfold Store.peek
  by_cases hs : b < size
  · rw [if_pos hs, if_pos hs]
    split
    · rename_i h
      have := get_writeBytes_at m size (fun i => off + i) n v (b - off) (by omega) (by show off + (b - off) < size; omega)
        (fun j _ _ => by show off + j ≠ off + (b - off); omega)
      rw [show off + (b - off) = b by omega] at this
      exact this
    · rename_i h
      exact get_writeBytes_other m size _ n v b (fun i hi => by show b ≠ off + i; omega)
  · rw [if_neg hs, if_neg hs, if_neg (by omega)]

/-- A read of DMEM after a write of consecutive bytes that wrap (44 R322). -/
theorem get_writeBytes_wrap (m : Memory) (a n : Nat) (v : Word) (hn : n ≤ 4096) (i : Nat) (hi : i < n) :
    Store.get (writeBytes m 4096 (fun i => (a + i) % 4096) n v) ((a + i) % 4096) = byteOf n v i :=
  get_writeBytes_at m 4096 (fun i => (a + i) % 4096) n v i hi (Nat.mod_lt _ (by omega)) (fun j h1 h2 => by
    show (a + j) % 4096 ≠ (a + i) % 4096
    omega)

/-! ### The bus -/

/-- A register that REGWIN gives is one of its words. -/
theorem inRegwin_of_busRegAt {p : Params} {pa : Nat} {r : BusReg} (h : p.busRegAt pa = some r) :
    p.inRegwin pa = true := by
  unfold Params.busRegAt at h
  unfold Params.inRegwin
  rw [List.any_eq_true]
  revert h
  induction p.regwin with
  | nil => exact fun h => by cases h
  | cons row rows ih =>
    intro h
    by_cases hk : pa = row.1
    · exact ⟨row, List.mem_cons_self, by simp [hk]⟩
    · rw [show List.lookup pa (row :: rows) = List.lookup pa rows by
        rw [List.lookup, beq_eq_false_iff_ne.2 hk]] at h
      obtain ⟨x, hx, hp⟩ := ih h
      exact ⟨x, List.mem_cons_of_mem _ hx, hp⟩

theorem inRegwin_eq_false_iff {p : Params} {pa : Nat} :
    p.inRegwin pa = false ↔ ∀ row ∈ p.regwin, pa < row.1 ∨ row.1 + 4 ≤ pa := by
  unfold Params.inRegwin
  simp only [List.any_eq_false, Bool.and_eq_true, decide_eq_true_eq, not_and, not_lt]
  exact forall₂_congr fun row _ => by omega

/-- Where an address lies, shape by shape: the address map of R82, first match wins (20_memory R82). -/
theorem region_cases (s : State) (pa : Nat) :
    (pa < s.params.rdramSize ∧ s.region pa = .rdram pa)
    ∨ s.params.rdramSize ≤ pa ∧
      ((0x04000000 ≤ pa ∧ pa ≤ 0x04000FFF ∧ s.region pa = .dmem (pa - 0x04000000))
      ∨ (0x04001000 ≤ pa ∧ pa ≤ 0x04001FFF ∧ s.region pa = .imem (pa - 0x04001000))
      ∨ ¬(0x04000000 ≤ pa ∧ pa ≤ 0x04001FFF) ∧
        ((s.params.inRegwin pa = true ∧ s.region pa = .registers (s.params.busRegAt pa))
        ∨ s.params.inRegwin pa = false ∧
          ((0x08000000 ≤ pa ∧ pa < 0x08000000 + s.saveSize ∧ s.region pa = .save (pa - 0x08000000))
          ∨ ¬(0x08000000 ≤ pa ∧ pa < 0x08000000 + s.saveSize) ∧
            ((0x10000000 ≤ pa ∧ pa ≤ 0x1FBFFFFF ∧ s.cart.isSome = true ∧ s.region pa = .rom (pa - 0x10000000))
            ∨ ¬(0x10000000 ≤ pa ∧ pa ≤ 0x1FBFFFFF ∧ s.cart.isSome = true) ∧ s.region pa = .unmapped)))) := by
  unfold State.region
  by_cases h0 : pa < s.params.rdramSize
  · exact .inl ⟨h0, if_pos h0⟩
  refine .inr ⟨by omega, ?_⟩
  rw [if_neg h0]
  by_cases h1 : 0x04000000 ≤ pa ∧ pa ≤ 0x04000FFF
  · exact .inl ⟨h1.1, h1.2, if_pos h1⟩
  rw [if_neg h1]
  by_cases h2 : 0x04001000 ≤ pa ∧ pa ≤ 0x04001FFF
  · exact .inr (.inl ⟨h2.1, h2.2, if_pos h2⟩)
  rw [if_neg h2]
  refine .inr (.inr ⟨by omega, ?_⟩)
  by_cases h3 : s.params.inRegwin pa = true
  · exact .inl ⟨h3, if_pos h3⟩
  rw [if_neg h3]
  refine .inr ⟨by simpa using h3, ?_⟩
  by_cases h4 : 0x08000000 ≤ pa ∧ pa < 0x08000000 + s.saveSize
  · exact .inl ⟨h4.1, h4.2, if_pos h4⟩
  rw [if_neg h4]
  refine .inr ⟨h4, ?_⟩
  by_cases h5 : 0x10000000 ≤ pa ∧ pa ≤ 0x1FBFFFFF ∧ s.cart.isSome = true
  · exact .inl ⟨h5.1, h5.2.1, h5.2.2, if_pos h5⟩
  · exact .inr ⟨h5, if_neg h5⟩

theorem region_rdram {s : State} {pa : Nat} (h : pa < s.params.rdramSize) : s.region pa = .rdram pa := by
  rcases region_cases s pa with ⟨-, e⟩ | ⟨h0, -⟩
  · exact e
  · omega

theorem region_dmem {s : State} {pa : Nat} (h0 : s.params.rdramSize ≤ pa) (h1 : 0x04000000 ≤ pa)
    (h2 : pa ≤ 0x04000FFF) : s.region pa = .dmem (pa - 0x04000000) := by
  rcases region_cases s pa with ⟨h, -⟩ | ⟨-, ⟨-, -, e⟩ | ⟨h, -⟩ | ⟨h, -⟩⟩
  · omega
  · exact e
  · omega
  · omega

theorem region_imem {s : State} {pa : Nat} (h0 : s.params.rdramSize ≤ pa) (h1 : 0x04001000 ≤ pa)
    (h2 : pa ≤ 0x04001FFF) : s.region pa = .imem (pa - 0x04001000) := by
  rcases region_cases s pa with ⟨h, -⟩ | ⟨-, ⟨-, h, -⟩ | ⟨-, -, e⟩ | ⟨h, -⟩⟩
  · omega
  · omega
  · exact e
  · omega

theorem region_save {s : State} {pa : Nat} (h0 : s.params.rdramSize ≤ pa) (hr : s.params.inRegwin pa = false)
    (h1 : 0x08000000 ≤ pa) (h2 : pa < 0x08000000 + s.saveSize) : s.region pa = .save (pa - 0x08000000) := by
  rcases region_cases s pa with ⟨h, -⟩ | ⟨-, ⟨-, h, -⟩ | ⟨-, h, -⟩ | ⟨-, ⟨h, -⟩ | ⟨-, ⟨-, -, e⟩ | ⟨h, -⟩⟩⟩⟩
  · omega
  · omega
  · omega
  · rw [hr] at h
    cases h
  · exact e
  · exact absurd ⟨h1, h2⟩ h

theorem region_rom {s : State} {c : Cartridge} {pa : Nat} (hc : s.cart = some c) (h0 : s.params.rdramSize ≤ pa)
    (hr : s.params.inRegwin pa = false) (hs : 0x08000000 + s.saveSize ≤ pa) (h1 : 0x10000000 ≤ pa)
    (h2 : pa ≤ 0x1FBFFFFF) : s.region pa = .rom (pa - 0x10000000) := by
  rcases region_cases s pa with
    ⟨h, -⟩ | ⟨-, ⟨-, h, -⟩ | ⟨-, h, -⟩ | ⟨-, ⟨h, -⟩ | ⟨-, ⟨-, h, -⟩ | ⟨-, ⟨-, -, -, e⟩ | ⟨h, -⟩⟩⟩⟩⟩
  · omega
  · omega
  · omega
  · rw [hr] at h
    cases h
  · omega
  · exact e
  · exact absurd ⟨h1, h2, by simp [hc]⟩ h

theorem region_unmapped {s : State} {pa : Nat} (h : UnmappedAt s pa) : s.region pa = .unmapped := by
  obtain ⟨hr, hw, hg, hs, hm⟩ := h
  have hg := inRegwin_eq_false_iff.2 hg
  rcases region_cases s pa with
    ⟨h, -⟩ | ⟨-, ⟨h, h', -⟩ | ⟨h, h', -⟩ | ⟨-, ⟨h, -⟩ | ⟨-, ⟨h, h', -⟩ | ⟨-, ⟨h, h', hc, -⟩ | ⟨-, e⟩⟩⟩⟩⟩
  · omega
  · omega
  · omega
  · rw [hg] at h
    cases h
  · omega
  · rcases hm with hm | hm | hm
    · simp [hm] at hc
    · omega
    · omega
  · exact e

theorem memoryWindow_of_region (s : State) (pa : Nat) :
    memoryWindow s pa = match s.region pa with
      | .rdram _ => some 0
      | .dmem _ => some 1
      | .imem _ => some 2
      | .save _ => some 3
      | .registers _ => none
      | .rom _ => none
      | .unmapped => none := by
  unfold memoryWindow
  rcases region_cases s pa with
    ⟨h, e⟩ | ⟨h0, ⟨h, h', e⟩ | ⟨h, h', e⟩ | ⟨hw, ⟨h, e⟩ | ⟨hr, ⟨h, h', e⟩ | ⟨hs, ⟨-, -, -, e⟩ | ⟨-, e⟩⟩⟩⟩⟩ <;> rw [e]
  · rw [if_pos h]
  · rw [if_neg (by omega), if_pos ⟨h, h'⟩]
  · rw [if_neg (by omega), if_neg (by omega), if_pos ⟨h, h'⟩]
  · rw [if_neg (by omega), if_neg (by omega), if_neg (by omega), if_pos h]
  · rw [if_neg (by omega), if_neg (by omega), if_neg (by omega), if_neg (by simp [hr]), if_pos ⟨h, h'⟩]
  · rw [if_neg (by omega), if_neg (by omega), if_neg (by omega), if_neg (by simp [hr]), if_neg hs]
  · rw [if_neg (by omega), if_neg (by omega), if_neg (by omega), if_neg (by simp [hr]), if_neg hs]

/-- `registerAt` in terms of the bus decoder. -/
theorem registerAt_of_region (s : State) (pa : Nat) :
    registerAt s pa = match s.region pa with
      | .registers r => r
      | .rdram _ => none
      | .dmem _ => none
      | .imem _ => none
      | .save _ => none
      | .rom _ => none
      | .unmapped => none := by
  have hnone : s.params.inRegwin pa = false → s.params.busRegAt pa = none := fun hr => by
    cases hb : s.params.busRegAt pa with
    | none => rfl
    | some r =>
      rw [inRegwin_of_busRegAt hb] at hr
      cases hr
  unfold registerAt
  rcases region_cases s pa with
    ⟨h, e⟩ | ⟨h0, ⟨h, h', e⟩ | ⟨h, h', e⟩ | ⟨hw, ⟨h, e⟩ | ⟨hr, ⟨h, h', e⟩ | ⟨hs, ⟨-, -, -, e⟩ | ⟨-, e⟩⟩⟩⟩⟩ <;> rw [e]
  · rw [if_pos (.inl h)]
  · rw [if_pos (.inr (by omega))]
  · rw [if_pos (.inr (by omega))]
  · rw [if_neg (by omega)]
  · rw [if_neg (by omega), hnone hr]
  · rw [if_neg (by omega), hnone hr]
  · rw [if_neg (by omega), hnone hr]

/-- An address of a register lies in the register windows. -/
theorem region_of_busReg {s : State} {pa : Nat} {r : BusReg} (h : registerAt s pa = some r) :
    s.region pa = .registers (some r) := by
  rw [registerAt_of_region] at h
  split at h <;> simp_all

/-- No register at an address of the register windows. -/
theorem region_of_no_busReg {s : State} {pa : Nat} {r : Option BusReg} (h : registerAt s pa = none)
    (hr : s.region pa = .registers r) : r = none := by
  rw [registerAt_of_region, hr] at h
  exact h

end Sys2Proof.Machine
end

