-- ==== Sys2Proof/Laws/Bus.lean ====
section
/-! SUPPORT. Everything a bus access, a write action of the register windows, a DMA and a vector store do. -/

namespace Sys2Proof.Machine

theorem byteOf_eq (n : Nat) (v : Word) (i : Nat) : byteOf n v i = BitVec.ofNat 8 (v.toNat / 256 ^ (n - 1 - i)) := by
  apply BitVec.eq_of_toNat_eq
  rw [byteOf_toNat]
  simp

theorem byteOf_word (n : Nat) (v : Word) (i : Nat) :
    (byteOf n v i).setWidth 32 = BitVec.ofNat 32 (v.toNat / 256 ^ (n - 1 - i) % 256) := by
  apply BitVec.eq_of_toNat_eq
  rw [BitVec.toNat_setWidth, byteOf_toNat]
  simp

theorem Access.size_le (n : Access) : n.size ≤ 4 := by cases n <;> decide

/-- The value of an access, whichever region answers it (20_memory R84, R87). -/
theorem joinBytes_access (f : Nat → Byte) (n : Access) :
    (joinBytes f n.size).toNat = bigEndian ((List.range n.size).map f) :=
  (joinBytes_toNat f n.size n.size_le).1

/-- The effective address in arithmetic (41 R240). -/
theorem State.ea_eq (s : State) (base : Reg) (off : BitVec 16) :
    s.ea base off = BitVec.ofInt 32 ((s.getX base).toNat + off.toInt) := by
  unfold State.ea State.getW immWord
  rw [BitVec.ofInt_add, BitVec.ofInt_natCast]
  congr 1

/-! ### A write of the bus -/

/-- The offset of an address in its region. -/
theorem region_offset (s : State) (pa : Nat) :
    match s.region pa with
    | .rdram o => o = pa ∧ pa < s.params.rdramSize
    | .dmem o => pa = 0x04000000 + o ∧ o < 4096
    | .imem o => pa = 0x04001000 + o ∧ o < 4096
    | .save o => pa = 0x08000000 + o ∧ o < s.saveSize
    | .rom o => pa = 0x10000000 + o
    | .registers _ => True
    | .unmapped => True := by
  rcases region_cases s pa with
    ⟨h, e⟩ | ⟨h0, ⟨h, h', e⟩ | ⟨h, h', e⟩ | ⟨hw, ⟨h, e⟩ | ⟨hr, ⟨h, h', e⟩ | ⟨hs, ⟨h, h', -, e⟩ | ⟨-, e⟩⟩⟩⟩⟩ <;>
    rw [e] <;> dsimp only <;> omega

theorem memRead_byte_eq (s : State) (a : Word) : s.memRead a .byte =
    match s.region (physAddr a) with
    | .rdram off => (s.rdramReadByte off).setWidth 32
    | .dmem off => (Store.peek s.rsp.dmem 4096 off).setWidth 32
    | .imem off => (Store.peek s.rsp.imem 4096 off).setWidth 32
    | .registers _ => 0#32
    | .save off => s.saveRead off .byte
    | .rom off => s.romRead off .byte
    | .unmapped => 0#32 := by
  unfold State.memRead
  cases s.region (physAddr a) <;> simp only [Access.size, joinBytes_one] <;> rfl

theorem saveSize_saveWrite (s : State) (off : Nat) (n : Access) (v : Word) :
    (s.saveWrite off n v).saveSize = s.saveSize := by
  unfold State.saveSize State.saveWrite
  cases s.cart <;> rfl

theorem State.writeBusReg_cpu (s : State) (r : BusReg) (v : Word) : (s.writeBusReg r v).cpu = s.cpu := by
  cases r <;> rfl

/-- A write of the bus leaves the CPU alone. -/
theorem State.memWrite_cpu (s : State) (a : Word) (n : Access) (v : Word) : (s.memWrite a n v).cpu = s.cpu := by
  unfold State.memWrite
  cases s.region (physAddr a) with
  | registers reg => cases n <;> cases reg <;> first | rfl | exact State.writeBusReg_cpu _ _ _
  | _ => rfl

theorem State.writeBusReg_params (s : State) (r : BusReg) (v : Word) : (s.writeBusReg r v).params = s.params := by
  cases r <;> rfl

/-- A write of the bus changes no parameter. -/
theorem State.memWrite_params (s : State) (a : Word) (n : Access) (v : Word) :
    (s.memWrite a n v).params = s.params := by
  unfold State.memWrite
  cases s.region (physAddr a) with
  | registers reg => cases n <;> cases reg <;> first | rfl | exact State.writeBusReg_params _ _ _
  | _ => rfl

/-- A word write at a register performs its write action (20_memory R100). -/
theorem State.memWrite_busReg {s : State} {a : Word} {r : BusReg} (h : registerAt s (physAddr a) = some r) (v : Word) :
    s.memWrite a .word v = s.writeBusReg r v := by
  unfold State.memWrite
  rw [region_of_busReg h]

theorem StoredAt.of_cpu {s t : State} {pa n : Nat} {v : Word} (h : StoredAt s t pa n v) (c : Cpu) :
    StoredAt s { t with cpu := c } pa n v :=
  ⟨h.params, fun a => h.bytes a, h.rsp, h.rdp, h.cart, h.bank, h.calls, h.reply⟩

/-- A state that a write of the bus does not change. -/
theorem storedAt_self {s : State} {pa n : Nat} {v : Word} (h : memoryWindow s pa = none) : StoredAt s s pa n v := by
  refine ⟨rfl, fun a => by rw [h]; simp, rfl, rfl, ?_, rfl, rfl, rfl⟩
  cases hcart : s.cart with
  | none => exact .inl ⟨rfl, rfl⟩
  | some c => exact .inr ⟨c, c, rfl, rfl, rfl⟩

/-- Everything a write of the bus does, a word write at a register aside. -/
theorem storedAt_memWrite (s : State) (ea : Word) (n : Access) (v : Word)
    (h : n = .word → registerAt s (physAddr ea) = none) : StoredAt s (s.memWrite ea n v) (physAddr ea) n.size v := by
  have hn : ∀ r, s.region (physAddr ea) = .registers r → s.memWrite ea n v = s := by
    intro r hr
    unfold State.memWrite
    rw [hr]
    cases n
    · rfl
    · rfl
    · rw [region_of_no_busReg (h rfl) hr]
  have hw := memoryWindow_of_region s
  have ho := region_offset s (physAddr ea)
  have hcart : ∀ m : Option Cartridge, (m = none ∧ m = none) ∨
      ∃ c d, m = some c ∧ m = some d ∧ d = { c with save := d.save } := by
    intro m
    cases m with
    | none => exact .inl ⟨rfl, rfl⟩
    | some c => exact .inr ⟨c, c, rfl, rfl, rfl⟩
  cases hr : s.region (physAddr ea) with
  | rdram off =>
    rw [hr] at ho
    obtain ⟨rfl, hlt⟩ := ho
    have e : s.memWrite ea n v =
        { s with rdram := writeBytes s.rdram s.params.rdramSize (fun i => physAddr ea + i) n.size v } := by
      unfold State.memWrite
      rw [hr]
    rw [e]
    refine ⟨rfl, fun a => ?_, rfl, rfl, hcart _, rfl, rfl, rfl⟩
    rw [memRead_byte_eq, memRead_byte_eq, State.region_congr (s := s) (t := { s with
        rdram := writeBytes s.rdram s.params.rdramSize (fun i => physAddr ea + i) n.size v }) rfl rfl, hw, hw, hr]
    have hoa := region_offset s (physAddr a)
    cases hra : s.region (physAddr a) with
    | rdram o =>
      rw [hra] at hoa
      obtain ⟨rfl, hlt2⟩ := hoa
      simp only [State.rdramReadByte]
      rw [peek_writeBytes]
      by_cases hc : physAddr ea ≤ physAddr a ∧ physAddr a < physAddr ea + n.size
      · rw [if_pos ⟨hc.1, hc.2, hlt2⟩, if_pos ⟨hc.1, hc.2, by simp, by simp⟩, byteOf_word]
      · rw [if_neg (by omega), if_neg (by omega)]
    | _ => simp <;> rfl
  | dmem off =>
    rw [hr] at ho
    have e : s.memWrite ea n v = { s with rsp := { s.rsp with
        dmem := writeBytes s.rsp.dmem Config.localSize (fun i => off + i) n.size v } } := by
      unfold State.memWrite
      rw [hr]
    rw [e]
    refine ⟨rfl, fun a => ?_, rfl, rfl, hcart _, rfl, rfl, rfl⟩
    rw [memRead_byte_eq, memRead_byte_eq, State.region_congr (s := s) (t := { s with rsp := { s.rsp with
        dmem := writeBytes s.rsp.dmem Config.localSize (fun i => off + i) n.size v } }) rfl rfl, hw, hw, hr]
    have hoa := region_offset s (physAddr a)
    cases hra : s.region (physAddr a) with
    | dmem o =>
      rw [hra] at hoa
      simp only [Config.localSize]
      rw [peek_writeBytes]
      by_cases hc : off ≤ o ∧ o < off + n.size
      · rw [if_pos (by omega), if_pos ⟨by omega, by omega, by simp, by simp⟩, byteOf_word,
          show physAddr a - physAddr ea = o - off by omega]
      · rw [if_neg (by omega), if_neg (by omega)]
    | _ => simp <;> rfl
  | imem off =>
    rw [hr] at ho
    have e : s.memWrite ea n v = { s with rsp := { s.rsp with
        imem := writeBytes s.rsp.imem Config.localSize (fun i => off + i) n.size v } } := by
      unfold State.memWrite
      rw [hr]
    rw [e]
    refine ⟨rfl, fun a => ?_, rfl, rfl, hcart _, rfl, rfl, rfl⟩
    rw [memRead_byte_eq, memRead_byte_eq, State.region_congr (s := s) (t := { s with rsp := { s.rsp with
        imem := writeBytes s.rsp.imem Config.localSize (fun i => off + i) n.size v } }) rfl rfl, hw, hw, hr]
    have hoa := region_offset s (physAddr a)
    cases hra : s.region (physAddr a) with
    | imem o =>
      rw [hra] at hoa
      simp only [Config.localSize]
      rw [peek_writeBytes]
      by_cases hc : off ≤ o ∧ o < off + n.size
      · rw [if_pos (by omega), if_pos ⟨by omega, by omega, by simp, by simp⟩, byteOf_word,
          show physAddr a - physAddr ea = o - off by omega]
      · rw [if_neg (by omega), if_neg (by omega)]
    | _ => simp <;> rfl
  | save off =>
    rw [hr] at ho
    have e : s.memWrite ea n v = s.saveWrite off n v := by
      unfold State.memWrite
      rw [hr]
    rw [e]
    cases hct : s.cart with
    | none => simp [State.saveSize, hct] at ho
    | some c =>
      refine ⟨rfl, fun a => ?_, rfl, rfl, .inr ⟨c, c.saveWrite s.saveSize off n v, hct, by simp [State.saveWrite, hct], rfl⟩, rfl, rfl,
        rfl⟩
      have hra' : State.region (s.saveWrite off n v) (physAddr a) = s.region (physAddr a) := by
        unfold State.region
        rw [saveSize_saveWrite]
        simp [State.saveWrite, hct]
      rw [memRead_byte_eq, memRead_byte_eq, hra', hw, hw, hr]
      have hoa := region_offset s (physAddr a)
      cases hra : s.region (physAddr a) with
      | save o =>
        rw [hra] at hoa
        have hread : (s.saveWrite off n v).saveRead o .byte =
            joinBytes (fun i => Store.peek (writeBytes c.save s.saveSize (fun i => off + i) n.size v) s.saveSize (o + i))
              Access.byte.size := by
          unfold State.saveRead
          rw [saveSize_saveWrite]
          simp only [State.saveWrite, hct, Option.map_some, Cartridge.saveRead, Cartridge.saveWrite]
        dsimp only
        rw [hread]
        simp only [State.saveRead, hct, Cartridge.saveRead, Access.size, joinBytes_one]
        simp only at ho hoa
        rw [peek_writeBytes]
        by_cases hc : off ≤ o ∧ o < off + n.size
        · simp only [Access.size] at hc
          rw [if_pos (by omega), if_pos ⟨by omega, by omega, by simp, by simp⟩, byteOf_word,
            show physAddr a - physAddr ea = o + 0 - off by omega]
        · simp only [Access.size] at hc
          rw [if_neg (by omega), if_neg (by omega)]
      | rom o =>
        simp [State.romRead, State.saveWrite, hct, Cartridge.romRead, Cartridge.saveWrite, Cartridge.effectiveOffset]
      | _ => simp <;> rfl
  | registers r =>
    rw [hn r hr]
    exact storedAt_self (by rw [hw, hr])
  | rom off =>
    rw [show s.memWrite ea n v = s by unfold State.memWrite; rw [hr]]
    exact storedAt_self (by rw [hw, hr])
  | unmapped =>
    rw [show s.memWrite ea n v = s by unfold State.memWrite; rw [hr]]
    exact storedAt_self (by rw [hw, hr])

/-! ### DMA -/

theorem dmemFilled_dmaToDmem (s : State) (d m n : Nat) : DmemFilled s (s.dmaToDmem d m n) d m n := by
  have ho : ∀ (mem : Memory) (i b : Nat), b ≠ (m + i) % 4096 →
      Store.get (Store.put mem ((m + i) % 4096) (s.rdramReadByte (d + i))) b = Store.get mem b :=
    fun mem i b hb => Store.get_put_other _ hb
  exact ⟨fun i hi hl => fold_get_last (loc := fun i => (m + i) % 4096) ho s.rsp.dmem n i _ hi
      (fun mem => Store.get_put_same _ _ _) hl,
    fun b hb => fold_get_other (loc := fun i => (m + i) % 4096) ho s.rsp.dmem n b hb⟩

theorem rdramFilled_dmaFromDmem (s : State) (d m n : Nat) : RdramFilled s (s.dmaFromDmem d m n) d m n := by
  intro a ha
  have e : s.rdramReadByte a = Store.get s.rdram a := if_pos ha
  have e' : (s.dmaFromDmem d m n).rdramReadByte a = Store.get (s.dmaFromDmem d m n).rdram a := if_pos ha
  have ho : ∀ (mem : Memory) (i b : Nat), b ≠ d + i → Store.get (Store.poke mem s.params.rdramSize (d + i)
      (Store.get s.rsp.dmem ((m + i) % Config.localSize))) b = Store.get mem b := fun mem i b hb => by
    rw [Store.get_poke, if_neg (fun h => hb h.1)]
  rw [e, e']
  split
  · have := fold_get_last (loc := fun i => d + i) ho s.rdram n (a - d)
      (Store.get s.rsp.dmem ((m + (a - d)) % 4096)) (by omega)
      (fun mem => by rw [Store.get_poke, if_pos ⟨rfl, by show d + (a - d) < s.params.rdramSize; omega⟩]; rfl)
      (fun j h1 h2 => by show d + j ≠ d + (a - d); omega)
    have e2 : d + (a - d) = a := by omega
    simp only [e2] at this
    exact this
  · exact fold_get_other (loc := fun i => d + i) ho s.rdram n a (fun i hi => by omega)

/-! ### The register windows -/

/-- Clearing the low two bits, in arithmetic. -/
theorem mask_low_two {k : Nat} (x c : BitVec k) (hc : ∀ j, j < k → c.getLsbD j = decide (2 ≤ j)) :
    (x &&& c).toNat = x.toNat / 4 * 4 := by
  have h1 : x &&& c = (x >>> 2) <<< 2 := by
    apply BitVec.eq_of_getLsbD_eq
    intro i hi
    simp only [BitVec.getLsbD_and, hc i hi, BitVec.getLsbD_shiftLeft, BitVec.getLsbD_ushiftRight, hi]
    by_cases h : i < 2
    · simp [h]
    · have : 2 + (i - 2) = i := by omega
      simp [h, this]
      omega
  have := x.isLt
  rw [h1, BitVec.toNat_shiftLeft, BitVec.toNat_ushiftRight, Nat.shiftRight_eq_div_pow, Nat.shiftLeft_eq, Nat.mod_eq_of_lt]
  omega

theorem dpcPointer_eq (v : Word) : dpcPointer v = BitVec.ofNat 24 (v.toNat % 2 ^ 24 / 4 * 4) := by
  apply BitVec.eq_of_toNat_eq
  unfold dpcPointer
  rw [mask_low_two _ _ (by decide)]
  simp
  omega

/-- Everything the write action of a register does (20_memory R100). -/
theorem registerAction_writeBusReg (s : State) (r : BusReg) (v : Word) : RegisterAction s (s.writeBusReg r v) r v := by
  have sw : ∀ k, v.setWidth k = BitVec.ofNat k v.toNat := fun k => by
    apply BitVec.eq_of_toNat_eq
    simp
  have len : v.toNat % 4096 + 1 = dmaLength v := by simp [dmaLength]
  cases r with
  | spMemAddr => simp only [RegisterAction, State.writeBusReg, sw]
  | spDramAddr => simp only [RegisterAction, State.writeBusReg, sw]
  | spRdLen =>
    refine ⟨rfl, ?_⟩
    rw [len]
    exact dmemFilled_dmaToDmem _ _ _ _
  | spWrLen =>
    refine ⟨rfl, ?_⟩
    rw [len]
    exact rdramFilled_dmaFromDmem _ _ _ _
  | spStatus =>
    refine ⟨rfl, ?_⟩
    simp only [State.writeBusReg, State.setRun, spStatusWrite]
    cases v.getLsbD 0 <;> cases v.getLsbD 1 <;> cases v.getLsbD 2 <;> cases s.rsp.run <;> decide
  | spPc =>
    simp only [RegisterAction, State.writeBusReg]
    congr 3
    apply BitVec.eq_of_toNat_eq
    rw [mask_low_two _ _ (by decide)]
    simp
    omega
  | dpcStart => simp only [RegisterAction, State.writeBusReg, dpcPointer_eq]
  | dpcEnd =>
    have hp : (BitVec.ofNat 24 (v.toNat % 2 ^ 24 / 4 * 4)).toNat = v.toNat % 2 ^ 24 / 4 * 4 := by
      simp
      omega
    simp only [RegisterAction, State.writeBusReg, dpcPointer_eq, State.enqueueAll, State.commandWords]
    rw [hp]
    congr 4
    funext k
    apply BitVec.eq_of_toNat_eq
    unfold State.rdramWord
    have hj := joinBytes_toNat (fun i => s.rdramReadByte (s.rdp.dpcStart.toNat + 4 * k + i)) 4 (by omega)
    rw [hj.1] at *
    simp
    omega

/-- What a write action does does not look at the CPU. -/
theorem registerAction_cpu {s t : State} {r : BusReg} {v : Word} (h : RegisterAction s t r v) (c : Cpu) :
    RegisterAction s { t with cpu := c } r v := by
  cases r <;> simp only [RegisterAction] at h ⊢
  case spRdLen => exact ⟨by rw [h.1], h.2⟩
  case spWrLen => exact ⟨by rw [h.1], h.2⟩
  case spStatus => exact ⟨by rw [h.1], h.2⟩
  all_goals rw [h]

/-! ### Vector loads and stores -/

/-- SQV's eight stores change DMEM alone, and by the RSP alone. -/
theorem writeLanes_frame (a : Nat) (l : Vector Lane 8) :
    ∃ g : Rsp → Memory, ∀ s : State, s.writeLanes a l = { s with rsp := { s.rsp with dmem := g s.rsp } } := by
  have key : ∀ is : List Nat, ∃ g : Rsp → Memory, ∀ s : State,
      is.foldl (fun t i => t.dmemWrite (a + 2 * i) .half ((l.toList.getD i 0#16).setWidth 32)) s
        = { s with rsp := { s.rsp with dmem := g s.rsp } } := by
    intro is
    induction is with
    | nil => exact ⟨fun r => r.dmem, fun s => rfl⟩
    | cons x is ih =>
      obtain ⟨g, hg⟩ := ih
      refine ⟨fun r => g { r with
        dmem := writeBytes r.dmem Config.localSize (fun i => (a + 2 * x + i) % Config.localSize) 2
          ((l.toList.getD x 0#16).setWidth 32) }, fun s => ?_⟩
      rw [List.foldl_cons, hg]
      rfl
  exact key _

theorem dmemRead_half (s : State) (a : Nat) : (s.dmemRead a .half).toNat =
    (Store.get s.rsp.dmem (a % 4096)).toNat * 256 + (Store.get s.rsp.dmem ((a + 1) % 4096)).toNat := by
  unfold State.dmemRead
  rw [joinBytes_access]
  simp [bigEndian, Access.size, List.range_succ, Config.localSize]

/-- Lane `k` of the eight lanes at `a` (44 R385). -/
theorem readLanes_get (s : State) (a : Nat) (k : Fin 8) : (s.readLanes a)[k] = BitVec.ofNat 16
    ((Store.get s.rsp.dmem ((a + 2 * k) % 4096)).toNat * 256
      + (Store.get s.rsp.dmem ((a + 2 * k + 1) % 4096)).toNat) := by
  have : ∀ w : Word, BitVec.ofNat 16 w.toNat = w.setWidth 16 := fun w => by
    apply BitVec.eq_of_toNat_eq
    simp
  rw [← dmemRead_half, this]
  fin_cases k <;> rfl

/-- The bytes of DMEM after SQV's eight stores (44 R386). -/
theorem get_writeLanes (s : State) (a : Nat) (l : Vector Lane 8) :
    (∀ j, j < 16 → Store.get (s.writeLanes a l).rsp.dmem ((a + j) % 4096) =
      BitVec.ofNat 8 ((l.toList.getD (j / 2) 0#16).toNat / 256 ^ (1 - j % 2)))
    ∧ ∀ b, (∀ j, j < 16 → b ≠ (a + j) % 4096) →
      Store.get (s.writeLanes a l).rsp.dmem b = Store.get s.rsp.dmem b := by
  have key : ∀ n, n ≤ 8 → ∀ t : State, t = (List.range n).foldl
      (fun t i => t.dmemWrite (a + 2 * i) .half ((l.toList.getD i 0#16).setWidth 32)) s →
      (∀ j, j < 2 * n → Store.get t.rsp.dmem ((a + j) % 4096) =
        BitVec.ofNat 8 ((l.toList.getD (j / 2) 0#16).toNat / 256 ^ (1 - j % 2)))
      ∧ ∀ b, (∀ j, j < 2 * n → b ≠ (a + j) % 4096) → Store.get t.rsp.dmem b = Store.get s.rsp.dmem b := by
    intro n
    induction n with
    | zero =>
      intro _ t ht
      subst ht
      exact ⟨fun j h => by omega, fun b _ => rfl⟩
    | succ n ih =>
      intro hn t ht
      rw [List.range_succ, List.foldl_append] at ht
      obtain ⟨h1, h2⟩ := ih (by omega) _ rfl
      generalize (List.range n).foldl
        (fun t i => State.dmemWrite t (a + 2 * i) .half ((l.toList.getD i 0#16).setWidth 32)) s = u at ht h1 h2
      have hd : t.rsp.dmem = writeBytes u.rsp.dmem 4096 (fun i => (a + 2 * n + i) % 4096) 2
          ((l.toList.getD n 0#16).setWidth 32) := by
        rw [ht]
        rfl
      rw [hd]
      refine ⟨fun j hj => ?_, fun b hb => ?_⟩
      · by_cases hjn : j < 2 * n
        · rw [get_writeBytes_other _ _ _ _ _ _ (fun i hi => by show (a + j) % 4096 ≠ (a + 2 * n + i) % 4096; omega),
            h1 j hjn]
        · have := get_writeBytes_wrap u.rsp.dmem (a + 2 * n) 2 ((l.toList.getD n 0#16).setWidth 32) (by omega)
            (j - 2 * n) (by omega)
          rw [show a + 2 * n + (j - 2 * n) = a + j by omega] at this
          rw [this, byteOf_eq, show j / 2 = n by omega, show 2 - 1 - (j - 2 * n) = 1 - j % 2 by omega,
            BitVec.toNat_setWidth, Nat.mod_eq_of_lt (a := BitVec.toNat _)
              (by have := (l.toList.getD n 0#16).isLt; omega)]
      · rw [get_writeBytes_other _ _ _ _ _ _ (fun i hi => by
          have := hb (2 * n + i) (by omega)
          rw [← Nat.add_assoc] at this
          exact this), h2 b (fun j hj => hb j (by omega))]
  exact key 8 (Nat.le_refl _) _ rfl

end Sys2Proof.Machine
end

