-- ==== Sys2Proof/Laws/Cartridge.lean ====
section
/-! SUPPORT. What the construction of a Cartridge does, function by function (20_memory R110 to R113, R118). -/

namespace Sys2Proof.Machine

/-! ### The magic orderings (R113) -/

theorem swapPairs_length : ∀ l : List Byte, (swapPairs l).length = l.length
  | [] => rfl
  | [_] => rfl
  | _ :: _ :: l => by simp [swapPairs, swapPairs_length l]

theorem reverseQuads_length : ∀ l : List Byte, (reverseQuads l).length = l.length
  | [] => rfl
  | [_] => rfl
  | [_, _] => rfl
  | [_, _, _] => rfl
  | _ :: _ :: _ :: _ :: l => by simp [reverseQuads, reverseQuads_length l]

/-- Byte `k` after the swap of pairs. -/
theorem swapPairs_getD : ∀ (l : List Byte) (k : Nat), k < l.length →
    (swapPairs l).getD k 0#8 = l.getD (if k / 2 * 2 + 2 ≤ l.length then k / 2 * 2 + (1 - k % 2) else k) 0#8
  | [], k, h => by simp at h
  | [b], k, h => by
    simp only [List.length_cons, List.length_nil] at h
    have : k = 0 := by omega
    subst this
    rfl
  | b0 :: b1 :: rest, k, h => by
    simp only [List.length_cons] at h ⊢
    match k with
    | 0 => rw [if_pos (by omega)]; rfl
    | 1 => rw [if_pos (by omega)]; rfl
    | k + 2 =>
      have ih := swapPairs_getD rest k (by omega)
      have e : (swapPairs (b0 :: b1 :: rest)).getD (k + 2) 0#8 = (swapPairs rest).getD k 0#8 := rfl
      rw [e, ih]
      by_cases hc : k / 2 * 2 + 2 ≤ rest.length
      · rw [if_pos hc, if_pos (by omega), show (k + 2) / 2 * 2 + (1 - (k + 2) % 2) = k / 2 * 2 + (1 - k % 2) + 2 by omega]
        rfl
      · rw [if_neg hc, if_neg (by omega)]
        rfl

/-- Byte `k` after the reversal of groups of four. -/
theorem reverseQuads_getD : ∀ (l : List Byte) (k : Nat), k < l.length →
    (reverseQuads l).getD k 0#8 = l.getD (if k / 4 * 4 + 4 ≤ l.length then k / 4 * 4 + (3 - k % 4) else k) 0#8
  | [], k, h => by simp at h
  | [_], k, h => by
    simp only [List.length_cons, List.length_nil] at h ⊢
    rw [if_neg (by omega)]
    rfl
  | [_, _], k, h => by
    simp only [List.length_cons, List.length_nil] at h ⊢
    rw [if_neg (by omega)]
    rfl
  | [_, _, _], k, h => by
    simp only [List.length_cons, List.length_nil] at h ⊢
    rw [if_neg (by omega)]
    rfl
  | b0 :: b1 :: b2 :: b3 :: rest, k, h => by
    simp only [List.length_cons] at h ⊢
    match k with
    | 0 => rw [if_pos (by omega)]; rfl
    | 1 => rw [if_pos (by omega)]; rfl
    | 2 => rw [if_pos (by omega)]; rfl
    | 3 => rw [if_pos (by omega)]; rfl
    | k + 4 =>
      have ih := reverseQuads_getD rest k (by omega)
      have e : (reverseQuads (b0 :: b1 :: b2 :: b3 :: rest)).getD (k + 4) 0#8 = (reverseQuads rest).getD k 0#8 := rfl
      rw [e, ih]
      by_cases hc : k / 4 * 4 + 4 ≤ rest.length
      · rw [if_pos hc, if_pos (by omega), show (k + 4) / 4 * 4 + (3 - (k + 4) % 4) = k / 4 * 4 + (3 - k % 4) + 4 by omega]
        rfl
      · rw [if_neg hc, if_neg (by omega)]
        rfl

/-- Two lists of one length with the same bytes are one list. -/
theorem eq_of_getD {l m : List Byte} (hl : l.length = m.length)
    (h : ∀ k, k < l.length → l.getD k 0#8 = m.getD k 0#8) : l = m :=
  List.ext_getElem hl fun k h1 h2 => by
    have := h k h1
    rwa [List.getD_eq_getElem _ _ h1, List.getD_eq_getElem _ _ h2] at this

/-- Normalising answers exactly the image in the first ordering, if its magic is one of the three. -/
theorem normaliseImage_eq_some_iff (image rom : List Byte) : normaliseImage image = some rom ↔ Normalised image rom := by
  unfold normaliseImage Normalised
  by_cases h1 : image.take 4 = [0x80#8, 0x37#8, 0x12#8, 0x40#8]
  · rw [if_pos h1, h1]
    constructor
    · rintro ⟨⟩
      exact ⟨rfl, .inl ⟨rfl, rfl⟩⟩
    · rintro ⟨-, ⟨-, rfl⟩ | ⟨h, -⟩ | ⟨h, -⟩⟩
      · rfl
      · simp at h
      · simp at h
  rw [if_neg h1]
  by_cases h2 : image.take 4 = [0x37#8, 0x80#8, 0x40#8, 0x12#8]
  · rw [if_pos h2, h2]
    constructor
    · rintro ⟨⟩
      exact ⟨swapPairs_length _, .inr (.inl ⟨rfl, swapPairs_getD image⟩)⟩
    · rintro ⟨hl, ⟨h, -⟩ | ⟨-, h⟩ | ⟨h, -⟩⟩
      · simp at h
      · refine congrArg some (eq_of_getD ((swapPairs_length image).trans hl.symm) fun k hk => ?_)
        rw [swapPairs_length] at hk
        rw [swapPairs_getD image k hk, h k hk]
      · simp at h
  rw [if_neg h2]
  by_cases h3 : image.take 4 = [0x40#8, 0x12#8, 0x37#8, 0x80#8]
  · rw [if_pos h3, h3]
    constructor
    · rintro ⟨⟩
      exact ⟨reverseQuads_length _, .inr (.inr ⟨rfl, reverseQuads_getD image⟩)⟩
    · rintro ⟨hl, ⟨h, -⟩ | ⟨h, -⟩ | ⟨-, h⟩⟩
      · simp at h
      · simp at h
      · refine congrArg some (eq_of_getD ((reverseQuads_length image).trans hl.symm) fun k hk => ?_)
        rw [reverseQuads_length] at hk
        rw [reverseQuads_getD image k hk, h k hk]
  rw [if_neg h3]
  simp [h1, h2, h3]

/-! ### The title and the save type (R111, R118) -/

theorem isTitlePad_iff {b : Byte} : isTitlePad b = true ↔ IsPad b := by simp [isTitlePad]

theorem trimmed_trimTitle (bs : List Byte) : Trimmed bs (trimTitle bs) := by
  have hm : ∀ (p : Byte → Bool) (l : List Byte), ∀ b ∈ l.takeWhile p, p b = true := fun p l b hb =>
    List.mem_takeWhile_imp hb
  have hh : ∀ (p : Byte → Bool) (l : List Byte) (b : Byte), (l.dropWhile p).head? = some b → ¬p b = true := by
    intro p l
    induction l with
    | nil => simp
    | cons a l ih =>
      intro b hb
      rw [List.dropWhile_cons] at hb
      split at hb
      · exact ih b hb
      · rename_i ha
        injection hb with hb
        exact hb ▸ ha
  have e1 := List.takeWhile_append_dropWhile (p := isTitlePad) (l := bs)
  generalize hd : bs.dropWhile isTitlePad = d at e1
  have e2 := List.takeWhile_append_dropWhile (p := isTitlePad) (l := d.reverse)
  have e3 : d = (d.reverse.dropWhile isTitlePad).reverse ++ (d.reverse.takeWhile isTitlePad).reverse := by
    rw [← List.reverse_append, e2, List.reverse_reverse]
  have ht : trimTitle bs = (d.reverse.dropWhile isTitlePad).reverse := by rw [trimTitle, hd]
  refine ⟨⟨bs.takeWhile isTitlePad, (d.reverse.takeWhile isTitlePad).reverse, ?_, fun b hb => ?_⟩, fun b hb => ?_,
    fun b hb => ?_⟩
  · rw [ht, List.append_assoc, ← e3, e1]
  · rw [← isTitlePad_iff]
    rcases List.mem_append.1 hb with hb | hb
    · exact hm _ _ b hb
    · exact hm _ _ b (List.mem_reverse.1 hb)
  · rw [← isTitlePad_iff]
    refine hh isTitlePad bs b ?_
    rw [hd, e3]
    rw [ht] at hb
    rw [List.head?_append, hb]
    rfl
  · rw [← isTitlePad_iff]
    refine hh isTitlePad d.reverse b ?_
    rw [ht, List.getLast?_reverse] at hb
    exact hb

theorem occursIn_iff (sub l : List Byte) : occursIn sub l = true ↔ sub <:+: l := by
  induction l with
  | nil => simp [occursIn]
  | cons b l ih => rw [occursIn, Bool.or_eq_true, ih, List.isPrefixOf_iff_prefix, List.infix_cons_iff]

theorem firstMatch_saveTypeOf (table : List (List Byte × SaveType)) (title : List Byte) :
    FirstMatch table title (saveTypeOf table title) := by
  induction table with
  | nil => exact .inr ⟨by simp, rfl⟩
  | cons e table ih =>
    unfold saveTypeOf at ih ⊢
    rw [List.find?_cons]
    cases ho : occursIn e.1 title with
    | true => exact .inl ⟨[], e, table, rfl, (occursIn_iff _ _).1 ho, by simp, rfl⟩
    | false =>
      have hn : ¬e.1 <:+: title := fun h => by
        rw [(occursIn_iff _ _).2 h] at ho
        cases ho
      rcases ih with ⟨before, entry, after, h1, h2, h3, h4⟩ | ⟨h1, h2⟩
      · refine .inl ⟨e :: before, entry, after, by rw [h1]; rfl, h2, fun x hx => ?_, h4⟩
        rcases List.mem_cons.1 hx with rfl | hx
        · exact hn
        · exact h3 x hx
      · refine .inr ⟨fun x hx => ?_, h2⟩
        rcases List.mem_cons.1 hx with rfl | hx
        · exact hn
        · exact h1 x hx

/-- "MYSTERY GAME" is unlisted, whatever the open table is (R118, U26). -/
theorem saveTypeOf_mysteryGame : saveTypeOf saveTitleTable mysteryGame = SaveType.none := by
  by_cases h : saveTypeOf Config.openTitleTable mysteryGame = SaveType.none
  · rw [saveTitleTable, if_pos h, h]
  · rw [saveTitleTable, if_neg h, saveTypeOf, List.find?_nil]

/-! ### The constructed Cartridge (R110) -/

/-- A header word is the big-endian number of its four bytes (R111). -/
theorem headerWord_toNat (rom : List Byte) (off : Nat) :
    (headerWord rom off).toNat = bigEndian ((List.range 4).map fun i => rom.getD (off + i) 0#8) :=
  (joinBytes_toNat (fun i => rom.getD (off + i) 0#8) 4 (Nat.le_refl 4)).1

/-- Everything a built Cartridge holds. -/
theorem builtFrom_cartridgeOf (p : Params) (table : List (List Byte × SaveType)) (rom : List Byte) :
    BuiltFrom p table rom (cartridgeOf p table rom) where
  image := rfl
  clockRate := rfl
  entryPoint := headerWord_toNat rom 0x08
  crc1 := headerWord_toNat rom 0x10
  crc2 := headerWord_toNat rom 0x14
  title := trimmed_trimTitle _
  region := rfl
  saveType := firstMatch_saveTypeOf _ _
  save := fun _ => rfl

/-- The four checks in order, on an image that is long enough and has a magic. -/
theorem constructCartridge_of_normalised (p : Params) (table : List (List Byte × SaveType)) {image rom : List Byte}
    (hl : 0x40 ≤ image.length) (hn : Normalised image rom) : constructCartridge p table image =
      if p.clockPlausible (rom.getD 0x04 0#8) = false then .error .badClock
      else if p.entryInWindow (headerWord rom 0x08) = false then .error .badEntry
      else .ok (cartridgeOf p table rom) := by
  unfold constructCartridge
  rw [if_neg (by omega), (normaliseImage_eq_some_iff _ _).2 hn]

end Sys2Proof.Machine
end

