-- ==== Sys2Proof/Laws/Drain.lean ====
section
/-! SUPPORT. Every instruction answers a next state, every decoder answers instructions of its block, and the drain of the
RDP's queue, one command at a time. -/

namespace Sys2Proof.Machine

/-- No instruction stops the machine (93_implementation_defined, after U35). -/
theorem exec_next (i : Instr) (s : State) : ∃ t, exec i s = .next t := by
  cases i
  case add =>
    show ∃ t, execAdd _ _ _ _ = _
    unfold execAdd
    split <;> exact ⟨_, rfl⟩
  case sub =>
    show ∃ t, execSub _ _ _ _ = _
    unfold execSub
    split <;> exact ⟨_, rfl⟩
  case addi =>
    show ∃ t, execAddi _ _ _ _ = _
    unfold execAddi
    split <;> exact ⟨_, rfl⟩
  case sc =>
    show ∃ t, execSc _ _ _ _ = _
    unfold execSc
    split <;> exact ⟨_, rfl⟩
  all_goals exact ⟨_, rfl⟩

theorem block_of_cpu {w : Word} {i : Instr} (h : decodeCpuWord w = .ok i) : i.block = .cpu := by
  unfold decodeCpuWord decodeCpuSpecial decodeCpuRegimm decodeCpuCop0 at h
  repeat' split at h
  all_goals first
    | (injection h with h; subst h; rfl)
    | cases h

theorem block_of_rsp {w : Word} {i : Instr} (h : decodeRspWord w = .ok i) : i.block = .rsp := by
  unfold decodeRspWord decodeRspSpecial decodeRspRegimm decodeRspVector decodeRspQuad at h
  repeat' split at h
  all_goals first
    | (injection h with h; subst h; rfl)
    | cases h

theorem block_of_rdp {w : Word} {ws : List Word} {i : Instr} (h : decodeRdpCommand w ws = .ok i) : i.block = .rdp := by
  unfold decodeRdpCommand at h
  split at h
  all_goals first
    | (injection h with h; subst h; rfl)
    | cases h

/-- What no RDP command changes (45 R434). -/
theorem rdp_frame {i : Instr} (h : i.block = .rdp) (s : State) :
    ∃ t, exec i s = .next t ∧ t.params = s.params ∧ t.cpu = s.cpu ∧ t.rsp = s.rsp ∧ t.rdp.queue = s.rdp.queue
      ∧ t.rdp.dpcStart = s.rdp.dpcStart ∧ t.bank = s.bank ∧ t.cart = s.cart ∧ t.calls = s.calls := by
  cases i <;> first | (cases h; done) | exact ⟨_, rfl, rfl, rfl, rfl, rfl, rfl, rfl, rfl, rfl⟩

/-- Fuel for every word of the queue is enough. -/
theorem drain_fuel {n m : Nat} {s : State} (hn : s.rdp.queue.length ≤ n) (hm : s.rdp.queue.length ≤ m) :
    drain n s = drain m s := by
  induction n generalizing m s with
  | zero =>
    have hq : s.rdp.queue = [] := List.length_eq_zero_iff.1 (by omega)
    cases m with
    | zero => rfl
    | succ m => rw [drain, drain, hq]
  | succ n ih =>
    cases m with
    | zero =>
      have hq : s.rdp.queue = [] := List.length_eq_zero_iff.1 (by omega)
      rw [drain, drain, hq]
    | succ m =>
      rw [drain, drain]
      cases hq : s.rdp.queue with
      | nil => rfl
      | cons w0 rest =>
        rw [hq, List.length_cons] at hn hm
        dsimp only
        split
        · rfl
        cases hd : decodeRdpCommand w0 (rest.take (s.params.rdpLen (fieldOpcode w0))) with
        | ok i =>
          dsimp only
          obtain ⟨t, ht, _, _, _, hqt, _⟩ := rdp_frame (block_of_rdp hd)
            (s.setQueue (rest.drop (s.params.rdpLen (fieldOpcode w0))))
          rw [ht]
          have hl : t.rdp.queue.length ≤ rest.length := by
            rw [hqt]
            show (rest.drop _).length ≤ _
            simp
          exact ih (by omega) (by omega)
        | error e =>
          dsimp only
          have hl : (s.setQueue (rest.drop (s.params.rdpLen (fieldOpcode w0)))).rdp.queue.length ≤ rest.length := by
            show (rest.drop _).length ≤ _
            simp
          exact ih (by omega) (by omega)

/-- The drain takes a whole command off the queue, runs it or skips it, and goes on (45 R401, R404). -/
theorem processCommands_cons (s : State) (w0 : Word) (ws rest : List Word) (hl : ws.length = s.params.rdpLen (fieldOpcode w0))
    (hq : s.rdp.queue = w0 :: (ws ++ rest)) :
    processCommands s = match decodeRdpCommand w0 ws with
      | .ok i => andThen (exec i (s.setQueue rest)) fun t => processCommands t
      | .error _ => processCommands (s.setQueue rest) := by
  have h : processCommands s = drain ((ws ++ rest).length + 1) s := by
    unfold processCommands
    rw [hq]
    rfl
  rw [h, drain, hq]
  dsimp only
  rw [if_neg (by simp; omega), ← hl, List.take_left, List.drop_left]
  cases hd : decodeRdpCommand w0 ws with
  | ok i =>
    dsimp only
    obtain ⟨t, ht, _, _, _, hqt, _⟩ := rdp_frame (block_of_rdp hd) (s.setQueue rest)
    have hqt : t.rdp.queue = rest := hqt
    rw [ht]
    exact drain_fuel (by rw [hqt]; simp) (Nat.le_refl _)
  | error e =>
    dsimp only
    exact drain_fuel (s := s.setQueue rest) (by show rest.length ≤ _; simp) (Nat.le_refl _)

end Sys2Proof.Machine
end

