-- ==== Sys2Proof/Laws/Effects.lean ====
section
/-! SUPPORT. Everything an instruction of each shape does, said once: what follows from the one shape its meaning has.
The CPU's register writes, HI and LO writes and branches stand in Laws/Ops.lean. -/

namespace Sys2Proof.Machine

/-- Everything a linking branch does. -/
theorem branchesLinking_of_exec {i : Instr} {s : State} {c : Bool} {target : Word} {taken : Prop} {rd : Reg}
    (hl : linkValue s.cpu.pc = wordResult (s.cpu.pc.toNat + 8)) (hc : c = true ↔ taken)
    (h : exec i s = .next ((s.setX rd (linkValue s.cpu.pc)).retireIf c target)) :
    BranchesLinking i s taken target rd := by
  refine ⟨_, h, fun ht => ?_, fun hn => ?_, ?_, ?_, ?_⟩
  · rw [hc.2 ht]
    exact ⟨rfl, rfl, by show (!s.cpu.delayFlag && true) = _; simp⟩
  · have : c = false := by
      rw [Bool.eq_false_iff]
      exact fun e => hn (hc.1 e)
    rw [this]
    exact ⟨rfl, by show (!s.cpu.delayFlag && false) = _; simp, rfl⟩
  · rw [← hl]
    cases c <;> exact ⟨State.getX_setX_same s rd _, fun r hr => State.getX_setX_other s _ hr⟩
  · cases c <;> exact ⟨rfl, rfl, rfl, rfl, rfl, rfl⟩
  · cases c <;> exact SameOutsideCpu.of_eq rfl rfl rfl rfl rfl rfl rfl rfl

/-- Everything an RSP scalar register write and an advance do. -/
theorem writesR_of_exec {i : Instr} {s : State} {rd : Reg} {v : Word} (h : exec i s = .next (s.setR rd v).rspRetire) :
    WritesR i s rd v :=
  ⟨_, h, ⟨State.getR_setR_same s rd v, fun r hr => State.getR_setR_other s v hr⟩, fun _ => rfl, rfl,
    ⟨rfl, rfl, rfl, rfl⟩, ⟨rfl, by simp, rfl⟩, ⟨rfl, rfl, rfl, rfl, rfl, rfl, rfl, rfl⟩⟩

/-- Everything an RSP branch does. -/
theorem rspBranches_of_exec {i : Instr} {s : State} {c : Bool} {target : Local} {taken : Prop} (hc : c = true ↔ taken)
    (h : exec i s = .next (s.rspRetireIf c target)) : RspBranches i s taken target := by
  refine ⟨_, h, fun ht => ?_, fun hn => ?_, ?_, ?_, ?_, ?_, ?_⟩
  · rw [hc.2 ht]
    exact rspBranched_advance s target
  · have : c = false := by
      rw [Bool.eq_false_iff]
      exact fun e => hn (hc.1 e)
    rw [this]
    exact rspAdvanced_retire s
  · cases c <;> exact fun _ => rfl
  · cases c <;> exact fun _ => rfl
  · cases c <;> rfl
  · cases c <;> exact ⟨rfl, rfl, rfl, rfl⟩
  · cases c <;> exact ⟨rfl, rfl, rfl, rfl, rfl, rfl, rfl, rfl⟩

/-- Everything an RSP linking branch does. -/
theorem rspBranchesLinking_of_exec {i : Instr} {s : State} {c : Bool} {target : Local} {taken : Prop} {rd : Reg}
    (hc : c = true ↔ taken) (h : exec i s = .next ((s.setR rd (rspLinkValue s.rsp.pc)).rspRetireIf c target)) :
    RspBranchesLinking i s taken target rd := by
  refine ⟨_, h, fun ht => ?_, fun hn => ?_, ?_, ?_, ?_, ?_, ?_⟩
  · rw [hc.2 ht]
    exact ⟨rfl, rfl, by show (!s.rsp.delayFlag && true) = _; simp⟩
  · have : c = false := by
      rw [Bool.eq_false_iff]
      exact fun e => hn (hc.1 e)
    rw [this]
    exact ⟨rfl, by show (!s.rsp.delayFlag && false) = _; simp, rfl⟩
  · cases c <;> exact ⟨State.getR_setR_same s rd _, fun r hr => State.getR_setR_other s _ hr⟩
  · cases c <;> exact fun _ => rfl
  · cases c <;> rfl
  · cases c <;> exact ⟨rfl, rfl, rfl, rfl⟩
  · cases c <;> exact ⟨rfl, rfl, rfl, rfl, rfl, rfl, rfl, rfl⟩

/-- Lane `k` of the second operand (44 R376). -/
theorem selectLanes_get (v : Vector Lane 8) (e : BitVec 4) (k : Fin 8) : (selectLanes v e)[k] = laneOf v e k := by
  unfold selectLanes laneOf
  have := e.isLt
  by_cases he : 8 ≤ e.toNat
  · rw [dif_pos he, if_pos he]
    simp [List.getD, show e.toNat - 8 < 8 by omega]
  · rw [dif_neg he, if_neg he]
    simp [List.getD]

/-- Everything a vector computational instruction does, lane by lane. -/
theorem writesV_of_exec {i : Instr} {s : State} {vd vs vt : Reg} {e : BitVec 4} {f : Fin 8 → Lane}
    {g : Lane → Lane → Lane} (h : exec i s = .next (s.laneOp g vd vs vt e).rspRetire)
    (hf : ∀ k : Fin 8, f k = g ((s.getV vs)[k]) (laneOf (s.getV vt) e k)) : WritesV i s vd f := by
  refine ⟨_, h, fun k => ?_, fun r hr => State.getV_setV_other s _ hr, fun _ => rfl, rfl, ⟨rfl, rfl, rfl, rfl⟩,
    ⟨rfl, by simp [State.laneOp], rfl⟩, ⟨rfl, rfl, rfl, rfl, rfl, rfl, rfl, rfl⟩⟩
  rw [hf]
  show (State.getV (s.setV vd (mapLanes g (s.getV vs) (selectLanes (s.getV vt) e))) vd)[k] = _
  rw [State.getV_setV_same, ← selectLanes_get]
  fin_cases k <;> rfl

/-- Everything a SET command does. -/
theorem setsRender_of_exec {i : Instr} {s : State} {r : RenderState} (h : exec i s = .next (s.setRender r)) :
    SetsRender i s r :=
  ⟨_, h, rfl, rfl, rfl, fun a => State.memRead_congr rfl rfl rfl rfl rfl rfl a .byte,
    ⟨rfl, rfl, rfl, rfl, rfl, rfl, rfl, rfl, rfl⟩⟩

end Sys2Proof.Machine
end

