-- ==== Sys2Proof/Laws/Inv.lean ====
section
/-! SUPPORT. Every named operation keeps the invariant of the machine (10_state R52). -/

namespace Sys2Proof.Machine

/-! ### Alignment -/

theorem aligned_iff {w : Nat} (hw : 2 ≤ w) (x : BitVec w) : x &&& 3#w = 0#w ↔ x.toNat % 4 = 0 := by
  have h3 : (3#w).toNat = 3 := by
    rw [BitVec.toNat_ofNat, Nat.mod_eq_of_lt]
    calc 3 < 2 ^ 2 := by norm_num
      _ ≤ 2 ^ w := Nat.pow_le_pow_right (by omega) hw
  constructor
  · intro h
    have := congrArg BitVec.toNat h
    rw [BitVec.toNat_and, h3, show 3 = 2 ^ 2 - 1 by norm_num, Nat.and_two_pow_sub_one_eq_mod] at this
    simpa using this
  · intro h
    apply BitVec.eq_of_toNat_eq
    rw [BitVec.toNat_and, h3, show 3 = 2 ^ 2 - 1 by norm_num, Nat.and_two_pow_sub_one_eq_mod]
    simpa using h

theorem aligned_add_four {x : Word} (h : x &&& 3#32 = 0#32) : (x + 4#32) &&& 3#32 = 0#32 := by
  rw [aligned_iff (by omega)] at h ⊢
  rw [BitVec.toNat_add]
  simp only [BitVec.toNat_ofNat]
  omega

theorem aligned_shiftLeft {w : Nat} (x : BitVec w) : (x <<< 2) &&& 3#w = 0#w := by
  by_cases hw : 2 ≤ w
  · rw [aligned_iff hw, BitVec.toNat_shiftLeft, Nat.shiftLeft_eq]
    obtain ⟨k, rfl⟩ : ∃ k, w = 2 + k := ⟨w - 2, by omega⟩
    rw [Nat.pow_add, Nat.mul_comm, Nat.mul_mod_mul_left, Nat.mul_mod_right]
  · have : w = 0 ∨ w = 1 := by omega
    rcases this with rfl | rfl
    · exact BitVec.eq_of_toNat_eq (by simp)
    · revert x
      decide

theorem aligned_add {x y : Word} (hx : x &&& 3#32 = 0#32) (hy : y &&& 3#32 = 0#32) : (x + y) &&& 3#32 = 0#32 := by
  rw [aligned_iff (by omega)] at hx hy ⊢
  rw [BitVec.toNat_add]
  omega

theorem aligned_mask {w : Nat} (x m : BitVec w) (hm : m &&& 3#w = 0#w) : (x &&& m) &&& 3#w = 0#w := by
  rw [BitVec.and_assoc, hm, BitVec.and_zero]

theorem aligned_branchTarget {pc : Word} (h : pc &&& 3#32 = 0#32) (off : BitVec 16) :
    branchTarget pc off &&& 3#32 = 0#32 :=
  aligned_add (aligned_add_four h) (aligned_shiftLeft _)

theorem aligned_jumpTarget (pc : Word) (target : BitVec 26) : jumpTarget pc target &&& 3#32 = 0#32 := by
  have h1 : ((pc + 4#32) &&& 0xF0000000#32) &&& 3#32 = 0#32 := aligned_mask _ _ (by decide)
  have h2 := aligned_shiftLeft (target.setWidth 32)
  rw [jumpTarget, BitVec.and_comm, BitVec.and_or_distrib_left, BitVec.and_comm 3#32, BitVec.and_comm 3#32, h1, h2]
  decide

theorem aligned_registerTarget (s : State) (rs : Reg) : s.registerTarget rs &&& 3#32 = 0#32 :=
  aligned_mask _ _ (by decide)

theorem aligned_rspBranchTarget (pc : Local) (off : BitVec 16) : rspBranchTarget pc off &&& 3#12 = 0#12 :=
  aligned_mask _ _ (by decide)

theorem aligned_rspJumpTarget (target : BitVec 26) : rspJumpTarget target &&& 3#12 = 0#12 :=
  aligned_mask _ _ (by decide)

theorem aligned_rspRegisterTarget (s : State) (rs : Reg) : s.rspRegisterTarget rs &&& 3#12 = 0#12 :=
  aligned_mask _ _ (by decide)

theorem regWrite_slot_zero (f : Vector (BitVec w) 32) (r : Reg) (v : BitVec w) : (regWrite f r v)[0] = f[0] := by
  unfold regWrite
  by_cases h : r = 0#5
  · subst h
    simp
  · have : r.toNat ≠ 0 := fun e => h (BitVec.eq_of_toNat_eq e)
    simp [this]

/-! ### The CPU's operations -/

theorem State.Inv.of_cpu {s : State} {c : Cpu} (h : s.Inv) (hc : c.Inv s.params) : ({ s with cpu := c } : State).Inv :=
  ⟨h.params, hc, h.rsp, h.rdp, h.rdram, h.cart⟩

theorem State.Inv.of_rsp {s : State} {r : Rsp} (h : s.Inv) (hr : r.Inv) : ({ s with rsp := r } : State).Inv :=
  ⟨h.params, h.cpu, hr, h.rdp, h.rdram, h.cart⟩

theorem State.Inv.of_rdp {s : State} {r : Rdp} (h : s.Inv) (hr : r.Inv s.params) : ({ s with rdp := r } : State).Inv :=
  ⟨h.params, h.cpu, h.rsp, hr, h.rdram, h.cart⟩

theorem State.Inv.of_rdram {s : State} {m : Memory} (h : s.Inv)
    (hm : Store.Canonical m ∧ Store.Below m s.params.rdramSize) : ({ s with rdram := m } : State).Inv :=
  ⟨h.params, h.cpu, h.rsp, h.rdp, hm, h.cart⟩

theorem inv_setX {s : State} (h : s.Inv) (r : Reg) (v : DWord) : (s.setX r v).Inv :=
  h.of_cpu ⟨(regWrite_slot_zero _ _ _).trans h.cpu.zero, h.cpu.pcAligned, h.cpu.targetAligned, h.cpu.prid, h.cpu.config⟩

theorem inv_setHi {s : State} (h : s.Inv) (v : DWord) : (s.setHi v).Inv :=
  h.of_cpu ⟨h.cpu.zero, h.cpu.pcAligned, h.cpu.targetAligned, h.cpu.prid, h.cpu.config⟩

theorem inv_setLo {s : State} (h : s.Inv) (v : DWord) : (s.setLo v).Inv :=
  h.of_cpu ⟨h.cpu.zero, h.cpu.pcAligned, h.cpu.targetAligned, h.cpu.prid, h.cpu.config⟩

theorem inv_setLl {s : State} (h : s.Inv) (v : Bool) : (s.setLl v).Inv :=
  h.of_cpu ⟨h.cpu.zero, h.cpu.pcAligned, h.cpu.targetAligned, h.cpu.prid, h.cpu.config⟩

theorem inv_setC0 {s : State} (h : s.Inv) (r : Reg) (v : Word) (h15 : r ≠ 15#5) (h16 : r ≠ 16#5) : (s.setC0 r v).Inv := by
  have n15 : r.toNat ≠ 15 := fun e => h15 (BitVec.eq_of_toNat_eq e)
  have n16 : r.toNat ≠ 16 := fun e => h16 (BitVec.eq_of_toNat_eq e)
  refine h.of_cpu ⟨h.cpu.zero, h.cpu.pcAligned, h.cpu.targetAligned, ?_, ?_⟩
  · exact (Vector.getElem_set_ne r.isLt _ n15).trans h.cpu.prid
  · exact (Vector.getElem_set_ne r.isLt _ n16).trans h.cpu.config

theorem inv_writeC0 {s : State} (h : s.Inv) (r : Reg) (v : Word) : (s.writeC0 r v).Inv := by
  by_cases hr : r = 15#5 ∨ r = 16#5
  · have : s.writeC0 r v = s := by
      unfold State.writeC0
      rw [if_pos hr]
      simp [State.setC0, State.getC0]
    rw [this]
    exact h
  · unfold State.writeC0
    rw [if_neg hr]
    exact inv_setC0 h r v (fun e => hr (.inl e)) (fun e => hr (.inr e))

theorem inv_advance {s : State} (h : s.Inv) (taken : Bool) : (s.advance taken).Inv := by
  refine h.of_cpu ⟨h.cpu.zero, ?_, h.cpu.targetAligned, h.cpu.prid, h.cpu.config⟩
  show (if s.cpu.delayFlag then s.cpu.pendingTarget else s.cpu.pc + 4#32) &&& 3#32 = 0#32
  split
  · exact h.cpu.targetAligned
  · exact aligned_add_four h.cpu.pcAligned

theorem inv_retire {s : State} (h : s.Inv) : s.retire.Inv := inv_advance h false

theorem inv_branch {s : State} (h : s.Inv) {t : Word} (ht : t &&& 3#32 = 0#32) : (s.branch t).Inv :=
  h.of_cpu ⟨h.cpu.zero, h.cpu.pcAligned, ht, h.cpu.prid, h.cpu.config⟩

theorem inv_retireIf {s : State} (h : s.Inv) (c : Bool) {t : Word} (ht : t &&& 3#32 = 0#32) : (s.retireIf c t).Inv := by
  cases c
  · exact inv_advance h false
  · exact inv_advance (inv_branch h ht) true

theorem inv_enterException {s : State} (h : s.Inv) (c : ExcCode) : (s.enterException c).Inv := by
  have h1 := inv_setC0 h 14#5 s.faultPc (by decide) (by decide)
  have h2 := inv_setC0 h1 13#5 (causeEntry s.cause s.cpu.delayFlag c) (by decide) (by decide)
  have h3 := inv_setC0 h2 12#5 (statusSetEl s.status) (by decide) (by decide)
  refine h3.of_cpu ⟨h3.cpu.zero, ?_, h3.cpu.targetAligned, h3.cpu.prid, h3.cpu.config⟩
  show exceptionVector s.params s.status &&& 3#32 = 0#32
  unfold exceptionVector
  split
  · exact h.params.bootAligned
  · exact h.params.normalAligned

theorem inv_returnFromException {s : State} (h : s.Inv) : s.returnFromException.Inv := by
  have h1 := inv_setC0 h 12#5 (statusClearEl s.status) (by decide) (by decide)
  exact h1.of_cpu ⟨h1.cpu.zero, aligned_mask _ _ (by decide), h1.cpu.targetAligned, h1.cpu.prid, h1.cpu.config⟩

theorem inv_poll {s : State} (h : s.Inv) : s.poll.Inv := by
  unfold State.poll
  split
  · exact inv_enterException h .int
  · exact h

theorem inv_irqSet {s : State} (h : s.Inv) (line : IrqLine) : (s.irqSet line).Inv :=
  h.of_cpu ⟨h.cpu.zero, h.cpu.pcAligned, h.cpu.targetAligned, h.cpu.prid, h.cpu.config⟩

theorem inv_irqClear {s : State} (h : s.Inv) (line : IrqLine) : (s.irqClear line).Inv :=
  h.of_cpu ⟨h.cpu.zero, h.cpu.pcAligned, h.cpu.targetAligned, h.cpu.prid, h.cpu.config⟩

theorem inv_setReply {s : State} (h : s.Inv) (r : Reply) : (s.setReply r).Inv :=
  ⟨h.params, h.cpu, h.rsp, h.rdp, h.rdram, h.cart⟩

theorem inv_calls {s : State} (h : s.Inv) (cs : List PortCall) : ({ s with calls := cs } : State).Inv :=
  ⟨h.params, h.cpu, h.rsp, h.rdp, h.rdram, h.cart⟩

/-! ### The RSP's operations -/

theorem inv_setR {s : State} (h : s.Inv) (r : Reg) (v : Word) : (s.setR r v).Inv :=
  h.of_rsp ⟨(regWrite_slot_zero _ _ _).trans h.rsp.zero, h.rsp.pcAligned, h.rsp.targetAligned, h.rsp.imem, h.rsp.dmem⟩

theorem inv_setV {s : State} (h : s.Inv) (r : Reg) (l : Vector Lane 8) : (s.setV r l).Inv :=
  h.of_rsp ⟨h.rsp.zero, h.rsp.pcAligned, h.rsp.targetAligned, h.rsp.imem, h.rsp.dmem⟩

theorem inv_setRun {s : State} (h : s.Inv) (r : RunState) : (s.setRun r).Inv :=
  h.of_rsp ⟨h.rsp.zero, h.rsp.pcAligned, h.rsp.targetAligned, h.rsp.imem, h.rsp.dmem⟩

theorem inv_dmemWrite {s : State} (h : s.Inv) (a : Nat) (n : Access) (v : Word) : (s.dmemWrite a n v).Inv :=
  h.of_rsp ⟨h.rsp.zero, h.rsp.pcAligned, h.rsp.targetAligned, h.rsp.imem, ok_writeBytes _ _ _ h.rsp.dmem⟩

theorem inv_writeLanes {s : State} (h : s.Inv) (a : Nat) (l : Vector Lane 8) : (s.writeLanes a l).Inv :=
  foldl_keeps (P := State.Inv) _ _ s h fun _ _ _ hy => inv_dmemWrite hy _ _ _

theorem inv_rspAdvance {s : State} (h : s.Inv) (taken : Bool) : (s.rspAdvance taken).Inv := by
  refine h.of_rsp ⟨h.rsp.zero, ?_, h.rsp.targetAligned, h.rsp.imem, h.rsp.dmem⟩
  show (if s.rsp.delayFlag then s.rsp.pendingTarget else (s.rsp.pc + 4#12) &&& 0xFFC#12) &&& 3#12 = 0#12
  split
  · exact h.rsp.targetAligned
  · exact aligned_mask _ _ (by decide)

theorem inv_rspRetire {s : State} (h : s.Inv) : s.rspRetire.Inv := inv_rspAdvance h false

theorem inv_rspBranch {s : State} (h : s.Inv) {t : Local} (ht : t &&& 3#12 = 0#12) : (s.rspBranch t).Inv :=
  h.of_rsp ⟨h.rsp.zero, h.rsp.pcAligned, ht, h.rsp.imem, h.rsp.dmem⟩

theorem inv_rspRetireIf {s : State} (h : s.Inv) (c : Bool) {t : Local} (ht : t &&& 3#12 = 0#12) :
    (s.rspRetireIf c t).Inv := by
  cases c
  · exact inv_rspAdvance h false
  · exact inv_rspAdvance (inv_rspBranch h ht) true

theorem inv_dmaToDmem {s : State} (h : s.Inv) (d m n : Nat) : (s.dmaToDmem d m n).Inv := by
  refine h.of_rsp ⟨h.rsp.zero, h.rsp.pcAligned, h.rsp.targetAligned, h.rsp.imem, ?_⟩
  exact foldl_keeps (P := fun m => Store.Canonical m ∧ Store.Below m Config.localSize) _ _ _ h.rsp.dmem fun _ _ _ hy =>
    Store.ok_put _ hy (Nat.mod_lt _ (by decide))

theorem inv_dmaFromDmem {s : State} (h : s.Inv) (d m n : Nat) : (s.dmaFromDmem d m n).Inv :=
  h.of_rdram (foldl_keeps (P := fun m => Store.Canonical m ∧ Store.Below m s.params.rdramSize) _ _ _ h.rdram
    fun _ _ _ hy => Store.ok_poke _ _ hy)

/-! ### The RDP's operations -/

theorem inv_enqueueAll {s : State} (h : s.Inv) (ws : List Word) : (s.enqueueAll ws).Inv :=
  h.of_rdp ⟨h.rdp.fb, h.rdp.colorWidth, h.rdp.texWidth, h.rdp.startAligned⟩

theorem inv_enqueue {s : State} (h : s.Inv) (w : Word) : (s.enqueue w).Inv :=
  h.of_rdp ⟨h.rdp.fb, h.rdp.colorWidth, h.rdp.texWidth, h.rdp.startAligned⟩

theorem inv_setQueue {s : State} (h : s.Inv) (q : List Word) : (s.setQueue q).Inv :=
  h.of_rdp ⟨h.rdp.fb, h.rdp.colorWidth, h.rdp.texWidth, h.rdp.startAligned⟩

theorem inv_setRender {s : State} (h : s.Inv) {r : RenderState} (h1 : WidthOk r.colorImage) (h2 : WidthOk r.texImage) :
    (s.setRender r).Inv :=
  h.of_rdp ⟨h.rdp.fb, h1, h2, h.rdp.startAligned⟩

theorem inv_setFb {s : State} (h : s.Inv) {fb : Pixels} (hf : Store.Canonical fb ∧ Store.Below fb s.params.fbPixels) :
    (s.setFb fb).Inv :=
  h.of_rdp ⟨hf, h.rdp.colorWidth, h.rdp.texWidth, h.rdp.startAligned⟩

theorem ok_paintRow {p : Params} {fb : Pixels} (h : Store.Canonical fb ∧ Store.Below fb p.fbPixels) {x0 x1 y : Nat}
    (hx : x1 ≤ p.fbWidth) (hy : y < p.fbHeight) (color : Nat → Nat → Word) :
    Store.Canonical (paintRow p.fbWidth fb x0 x1 y color) ∧ Store.Below (paintRow p.fbWidth fb x0 x1 y color) p.fbPixels := by
  refine foldl_keeps (P := fun m => Store.Canonical m ∧ Store.Below m p.fbPixels) _ _ _ h fun _ i hi hm =>
    Store.ok_put _ hm ?_
  have hi := List.mem_range.1 hi
  calc y * p.fbWidth + (x0 + i) < y * p.fbWidth + p.fbWidth := by omega
    _ = (y + 1) * p.fbWidth := (Nat.succ_mul _ _).symm
    _ ≤ p.fbHeight * p.fbWidth := Nat.mul_le_mul_right _ hy
    _ = p.fbPixels := Nat.mul_comm _ _

theorem ok_paintRect {p : Params} {fb : Pixels} (h : Store.Canonical fb ∧ Store.Below fb p.fbPixels)
    (xl yl xh yh : BitVec 12) (color : Nat → Nat → Word) :
    Store.Canonical (paintRect p.fbWidth fb (pixelRect p xl yl xh yh) color)
      ∧ Store.Below (paintRect p.fbWidth fb (pixelRect p xl yl xh yh) color) p.fbPixels := by
  refine foldl_keeps (P := fun m => Store.Canonical m ∧ Store.Below m p.fbPixels) _ _ _ h fun _ j hj hm =>
    ok_paintRow hm ?_ ?_ color
  · exact Nat.min_le_right _ _
  · have hj := List.mem_range.1 hj
    simp only [pixelRect] at *
    omega

theorem mem_pixelCells {size base : Nat} {cell : Nat × Word} {c : Nat × Byte} (h : c ∈ pixelCells size base cell) :
    base + cell.1 * 4 ≤ c.1 ∧ c.1 < base + cell.1 * 4 + 4 ∧ c.1 < size ∧ c.2 ≠ 0#8 := by
  rw [pixelCells, List.mem_filter] at h
  have h1 := Store.le_of_mem_ofBytes h.1
  have h2 := (Store.ok_ofBytes _ _).1.2 c h.1
  simp only [List.length_cons, List.length_nil] at h1
  exact ⟨h1.1, h1.2, by simpa using h.2, h2⟩

theorem ok_frameCells (size base : Nat) {fb : Pixels} (h : Store.Canonical fb) :
    Store.Canonical (fb.flatMap (pixelCells size base)) := by
  refine ⟨?_, fun c hc => ?_⟩
  · rw [List.pairwise_flatMap]
    refine ⟨fun cell _ => ?_, ?_⟩
    · exact (Store.canonical_filter _ (Store.ok_ofBytes _ _).1).1
    · refine h.1.imp fun hlt c hc d hd => ?_
      have h1 := mem_pixelCells hc
      have h2 := mem_pixelCells hd
      omega
  · obtain ⟨cell, _, hc⟩ := List.mem_flatMap.1 hc
    exact (mem_pixelCells hc).2.2.2

theorem ok_frameWriteback {p : Params} {rdram : Memory} {fb : Pixels} (base : Nat)
    (hr : Store.Canonical rdram ∧ Store.Below rdram p.rdramSize) (hf : Store.Canonical fb) :
    Store.Canonical (frameWriteback p rdram fb base) ∧ Store.Below (frameWriteback p rdram fb base) p.rdramSize := by
  have hmid := ok_frameCells p.rdramSize base (Store.canonical_filter (fun c => decide (c.1 < p.fbPixels)) hf)
  have hin : ∀ c ∈ (fb.filter fun c => decide (c.1 < p.fbPixels)).flatMap (pixelCells p.rdramSize base),
      base ≤ c.1 ∧ c.1 < base + p.frameBytes ∧ c.1 < p.rdramSize := by
    intro c hc
    obtain ⟨cell, hcell, hc⟩ := List.mem_flatMap.1 hc
    have h1 := mem_pixelCells hc
    have h2 : cell.1 < p.fbPixels := by simpa using (List.mem_filter.1 hcell).2
    refine ⟨by omega, ?_, h1.2.2.1⟩
    have := h1.2.1
    simp only [Params.frameBytes]
    omega
  unfold frameWriteback
  refine ⟨⟨?_, ?_⟩, ?_⟩
  · rw [List.pairwise_append, List.pairwise_append]
    refine ⟨⟨(Store.canonical_filter _ hr.1).1, hmid.1, ?_⟩, (Store.canonical_filter _ hr.1).1, ?_⟩
    · intro c hc d hd
      have h1 : c.1 < base := by simpa using (List.mem_filter.1 hc).2
      have h2 := hin d hd
      omega
    · intro c hc d hd
      have h2 : base + p.frameBytes ≤ d.1 := by simpa using (List.mem_filter.1 hd).2
      rcases List.mem_append.1 hc with hc | hc
      · have h1 : c.1 < base := by simpa using (List.mem_filter.1 hc).2
        omega
      · have h1 := hin c hc
        omega
  · intro c hc
    rcases List.mem_append.1 hc with hc | hc
    · rcases List.mem_append.1 hc with hc | hc
      · exact hr.1.2 c (List.mem_of_mem_filter hc)
      · exact hmid.2 c hc
    · exact hr.1.2 c (List.mem_of_mem_filter hc)
  · intro c hc
    rcases List.mem_append.1 hc with hc | hc
    · rcases List.mem_append.1 hc with hc | hc
      · exact hr.2 c (List.mem_of_mem_filter hc)
      · exact (hin c hc).2.2
    · exact hr.2 c (List.mem_of_mem_filter hc)

/-! ### The bus and the Cartridge -/

theorem inv_cartSave {p : Params} {c : Cartridge} (h : c.Inv p) {size : Nat} (hs : size = p.saveSize c.saveType)
    (off : Nat) (n : Access) (v : Word) : (c.saveWrite size off n v).Inv p := by
  subst hs
  exact
  ⟨h.romSize, ok_writeBytes _ _ _ h.save⟩

theorem inv_saveWrite {s : State} (h : s.Inv) (off : Nat) (n : Access) (v : Word) : (s.saveWrite off n v).Inv := by
  refine ⟨h.params, h.cpu, h.rsp, h.rdp, h.rdram, fun c hc => ?_⟩
  obtain ⟨d, hd, rfl⟩ := Option.map_eq_some_iff.1 hc
  exact inv_cartSave (h.cart d hd) (by simp [State.saveSize, hd]) off n v

theorem inv_writeBusReg {s : State} (h : s.Inv) (r : BusReg) (v : Word) : (s.writeBusReg r v).Inv := by
  have hstart : dpcPointer v &&& 3#24 = 0#24 := aligned_mask _ _ (by decide)
  cases r with
  | spMemAddr => exact h.of_rsp ⟨h.rsp.zero, h.rsp.pcAligned, h.rsp.targetAligned, h.rsp.imem, h.rsp.dmem⟩
  | spDramAddr => exact h.of_rsp ⟨h.rsp.zero, h.rsp.pcAligned, h.rsp.targetAligned, h.rsp.imem, h.rsp.dmem⟩
  | spRdLen => exact inv_dmaToDmem h _ _ _
  | spWrLen => exact inv_dmaFromDmem h _ _ _
  | spStatus => exact inv_setRun h _
  | spPc => exact h.of_rsp ⟨h.rsp.zero, aligned_mask _ _ (by decide), h.rsp.targetAligned, h.rsp.imem, h.rsp.dmem⟩
  | dpcStart => exact h.of_rdp ⟨h.rdp.fb, h.rdp.colorWidth, h.rdp.texWidth, hstart⟩
  | dpcEnd => exact h.of_rdp ⟨h.rdp.fb, h.rdp.colorWidth, h.rdp.texWidth, hstart⟩

theorem inv_memWrite {s : State} (h : s.Inv) (a : Word) (n : Access) (v : Word) : (s.memWrite a n v).Inv := by
  unfold State.memWrite
  split
  · exact h.of_rdram (ok_writeBytes _ _ _ h.rdram)
  · exact h.of_rsp ⟨h.rsp.zero, h.rsp.pcAligned, h.rsp.targetAligned, h.rsp.imem, ok_writeBytes _ _ _ h.rsp.dmem⟩
  · exact h.of_rsp ⟨h.rsp.zero, h.rsp.pcAligned, h.rsp.targetAligned, ok_writeBytes _ _ _ h.rsp.imem, h.rsp.dmem⟩
  · split
    · exact inv_writeBusReg h _ _
    · exact h
  · exact inv_saveWrite h _ _ _
  · exact h
  · exact h

end Sys2Proof.Machine
end

