-- ==== Sys2Proof/Laws/Exec.lean ====
section
/-! SUPPORT. Every instruction keeps the invariant, and every decoder answers well-formed instructions. -/

namespace Sys2Proof.Machine

/-! ### What the decoders answer is well-formed -/

theorem wellFormed_of_rdp {w0 : Word} {ws : List Word} {i : Instr} (h : decodeRdpCommand w0 ws = .ok i) : i.wellFormed = true := by
  unfold decodeRdpCommand at h
  split at h <;> first
    | (injection h with h; subst h; simp [Instr.wellFormed, fieldWidth]; try omega)
    | cases h

theorem wellFormed_of_cpu {w : Word} {i : Instr} (h : decodeCpuWord w = .ok i) : i.wellFormed = true := by
  unfold decodeCpuWord decodeCpuSpecial decodeCpuRegimm decodeCpuCop0 at h
  repeat' split at h
  all_goals first
    | (injection h with h; subst h; rfl)
    | cases h

theorem wellFormed_of_rsp {w : Word} {i : Instr} (h : decodeRspWord w = .ok i) : i.wellFormed = true := by
  unfold decodeRspWord decodeRspSpecial decodeRspRegimm decodeRspVector decodeRspQuad at h
  repeat' split at h
  all_goals first
    | (injection h with h; subst h; rfl)
    | cases h

/-! ### Instructions and the parameters -/

/-- No instruction changes a parameter of the machine (00_scope R6). -/
theorem exec_params (i : Instr) (s : State) : ∃ t, exec i s = .next t ∧ t.params = s.params := by
  cases i
  case add =>
    show ∃ t, execAdd _ _ _ _ = _ ∧ _
    unfold execAdd
    split <;> exact ⟨_, rfl, rfl⟩
  case sub =>
    show ∃ t, execSub _ _ _ _ = _ ∧ _
    unfold execSub
    split <;> exact ⟨_, rfl, rfl⟩
  case addi =>
    show ∃ t, execAddi _ _ _ _ = _ ∧ _
    unfold execAddi
    split <;> exact ⟨_, rfl, rfl⟩
  case sc =>
    show ∃ t, execSc _ _ _ _ = _ ∧ _
    unfold execSc
    split
    · exact ⟨_, rfl, State.memWrite_params _ _ _ _⟩
    · exact ⟨_, rfl, rfl⟩
  case sqv vt base off =>
    obtain ⟨g, hg⟩ := writeLanes_frame (s.quadEa base off) (s.getV vt)
    exact ⟨_, rfl, by rw [State.rspRetire_params, hg]⟩
  all_goals first
    | exact ⟨_, rfl, State.retireIf_params _ _ _⟩
    | exact ⟨_, rfl, State.rspRetireIf_params _ _ _⟩
    | exact ⟨_, rfl, State.memWrite_params _ _ _ _⟩
    | exact ⟨_, rfl, rfl⟩

/-! ### Instructions and the invariant -/

/-- If the result is a next state, it meets the invariant. -/
def nextInv (r : Result) : Prop := ∀ t, r = .next t → t.Inv
theorem nextInv_next {t : State} (h : t.Inv) : nextInv (.next t) := by
  intro u hu
  injection hu with hu
  exact hu ▸ h
/-- Every well-formed instruction keeps the invariant. -/
theorem exec_keeps_inv {i : Instr} {s : State} (hw : i.wellFormed = true) (h : s.Inv) : nextInv (exec i s) := by
  cases i with
  | sll _ _ _ => exact nextInv_next (inv_retire (inv_setX h _ _))
  | srl _ _ _ => exact nextInv_next (inv_retire (inv_setX h _ _))
  | sra _ _ _ => exact nextInv_next (inv_retire (inv_setX h _ _))
  | sllv _ _ _ => exact nextInv_next (inv_retire (inv_setX h _ _))
  | srlv _ _ _ => exact nextInv_next (inv_retire (inv_setX h _ _))
  | srav _ _ _ => exact nextInv_next (inv_retire (inv_setX h _ _))
  | jr _ => exact nextInv_next (inv_retireIf h _ (aligned_registerTarget _ _))
  | jalr _ _ => exact nextInv_next (inv_retireIf (inv_setX h _ _) _ (aligned_registerTarget _ _))
  | syscall _ => exact nextInv_next (inv_enterException h _)
  | brk _ => exact nextInv_next (inv_enterException h _)
  | mfhi _ => exact nextInv_next (inv_retire (inv_setX h _ _))
  | mthi _ => exact nextInv_next (inv_retire (inv_setHi h _))
  | mflo _ => exact nextInv_next (inv_retire (inv_setX h _ _))
  | mtlo _ => exact nextInv_next (inv_retire (inv_setLo h _))
  | mult _ _ => exact nextInv_next (inv_retire (inv_setHi (inv_setLo h _) _))
  | multu _ _ => exact nextInv_next (inv_retire (inv_setHi (inv_setLo h _) _))
  | div _ _ => exact nextInv_next (inv_retire (inv_setHi (inv_setLo h _) _))
  | divu _ _ => exact nextInv_next (inv_retire (inv_setHi (inv_setLo h _) _))
  | add _ _ _ =>
    show nextInv (execAdd _ _ _ _)
    unfold execAdd
    split
    · exact nextInv_next (inv_enterException h _)
    · exact nextInv_next (inv_retire (inv_setX h _ _))
  | addu _ _ _ => exact nextInv_next (inv_retire (inv_setX h _ _))
  | sub _ _ _ =>
    show nextInv (execSub _ _ _ _)
    unfold execSub
    split
    · exact nextInv_next (inv_enterException h _)
    · exact nextInv_next (inv_retire (inv_setX h _ _))
  | subu _ _ _ => exact nextInv_next (inv_retire (inv_setX h _ _))
  | and _ _ _ => exact nextInv_next (inv_retire (inv_setX h _ _))
  | or _ _ _ => exact nextInv_next (inv_retire (inv_setX h _ _))
  | xor _ _ _ => exact nextInv_next (inv_retire (inv_setX h _ _))
  | nor _ _ _ => exact nextInv_next (inv_retire (inv_setX h _ _))
  | slt _ _ _ => exact nextInv_next (inv_retire (inv_setX h _ _))
  | sltu _ _ _ => exact nextInv_next (inv_retire (inv_setX h _ _))
  | bltz _ _ => exact nextInv_next (inv_retireIf h _ (aligned_branchTarget h.cpu.pcAligned _))
  | bgez _ _ => exact nextInv_next (inv_retireIf h _ (aligned_branchTarget h.cpu.pcAligned _))
  | bltzal _ _ => exact nextInv_next (inv_retireIf (inv_setX h _ _) _ (aligned_branchTarget h.cpu.pcAligned _))
  | bgezal _ _ => exact nextInv_next (inv_retireIf (inv_setX h _ _) _ (aligned_branchTarget h.cpu.pcAligned _))
  | j _ => exact nextInv_next (inv_retireIf h _ (aligned_jumpTarget _ _))
  | jal _ => exact nextInv_next (inv_retireIf (inv_setX h _ _) _ (aligned_jumpTarget _ _))
  | beq _ _ _ => exact nextInv_next (inv_retireIf h _ (aligned_branchTarget h.cpu.pcAligned _))
  | bne _ _ _ => exact nextInv_next (inv_retireIf h _ (aligned_branchTarget h.cpu.pcAligned _))
  | blez _ _ => exact nextInv_next (inv_retireIf h _ (aligned_branchTarget h.cpu.pcAligned _))
  | bgtz _ _ => exact nextInv_next (inv_retireIf h _ (aligned_branchTarget h.cpu.pcAligned _))
  | addi _ _ _ =>
    show nextInv (execAddi _ _ _ _)
    unfold execAddi
    split
    · exact nextInv_next (inv_enterException h _)
    · exact nextInv_next (inv_retire (inv_setX h _ _))
  | addiu _ _ _ => exact nextInv_next (inv_retire (inv_setX h _ _))
  | slti _ _ _ => exact nextInv_next (inv_retire (inv_setX h _ _))
  | sltiu _ _ _ => exact nextInv_next (inv_retire (inv_setX h _ _))
  | andi _ _ _ => exact nextInv_next (inv_retire (inv_setX h _ _))
  | ori _ _ _ => exact nextInv_next (inv_retire (inv_setX h _ _))
  | xori _ _ _ => exact nextInv_next (inv_retire (inv_setX h _ _))
  | lui _ _ => exact nextInv_next (inv_retire (inv_setX h _ _))
  | lb _ _ _ => exact nextInv_next (inv_retire (inv_setX h _ _))
  | lh _ _ _ => exact nextInv_next (inv_retire (inv_setX h _ _))
  | lw _ _ _ => exact nextInv_next (inv_retire (inv_setX h _ _))
  | lbu _ _ _ => exact nextInv_next (inv_retire (inv_setX h _ _))
  | lhu _ _ _ => exact nextInv_next (inv_retire (inv_setX h _ _))
  | lwu _ _ _ => exact nextInv_next (inv_retire (inv_setX h _ _))
  | sb _ _ _ => exact nextInv_next (inv_retire (inv_memWrite h _ _ _))
  | sh _ _ _ => exact nextInv_next (inv_retire (inv_memWrite h _ _ _))
  | sw _ _ _ => exact nextInv_next (inv_retire (inv_memWrite h _ _ _))
  | ll _ _ _ => exact nextInv_next (inv_retire (inv_setLl (inv_setX h _ _) _))
  | sc _ _ _ =>
    show nextInv (execSc _ _ _ _)
    unfold execSc
    split
    · exact nextInv_next (inv_retire (inv_setLl (inv_setX (inv_memWrite h _ _ _) _ _) _))
    · exact nextInv_next (inv_retire (inv_setLl (inv_setX h _ _) _))
  | mfc0 _ _ => exact nextInv_next (inv_retire (inv_setX h _ _))
  | mtc0 _ _ => exact nextInv_next (inv_retire (inv_writeC0 h _ _))
  | eret  => exact nextInv_next (inv_returnFromException h)
  | rspSll _ _ _ => exact nextInv_next (inv_rspRetire (inv_setR h _ _))
  | rspSrl _ _ _ => exact nextInv_next (inv_rspRetire (inv_setR h _ _))
  | rspSra _ _ _ => exact nextInv_next (inv_rspRetire (inv_setR h _ _))
  | rspSllv _ _ _ => exact nextInv_next (inv_rspRetire (inv_setR h _ _))
  | rspSrlv _ _ _ => exact nextInv_next (inv_rspRetire (inv_setR h _ _))
  | rspSrav _ _ _ => exact nextInv_next (inv_rspRetire (inv_setR h _ _))
  | rspJr _ => exact nextInv_next (inv_rspRetireIf h _ (aligned_rspRegisterTarget _ _))
  | rspJalr _ _ => exact nextInv_next (inv_rspRetireIf (inv_setR h _ _) _ (aligned_rspRegisterTarget _ _))
  | rspBreak _ => exact nextInv_next (inv_rspRetire (inv_setRun h _))
  | rspAdd _ _ _ => exact nextInv_next (inv_rspRetire (inv_setR h _ _))
  | rspAddu _ _ _ => exact nextInv_next (inv_rspRetire (inv_setR h _ _))
  | rspSub _ _ _ => exact nextInv_next (inv_rspRetire (inv_setR h _ _))
  | rspSubu _ _ _ => exact nextInv_next (inv_rspRetire (inv_setR h _ _))
  | rspAnd _ _ _ => exact nextInv_next (inv_rspRetire (inv_setR h _ _))
  | rspOr _ _ _ => exact nextInv_next (inv_rspRetire (inv_setR h _ _))
  | rspXor _ _ _ => exact nextInv_next (inv_rspRetire (inv_setR h _ _))
  | rspNor _ _ _ => exact nextInv_next (inv_rspRetire (inv_setR h _ _))
  | rspSlt _ _ _ => exact nextInv_next (inv_rspRetire (inv_setR h _ _))
  | rspSltu _ _ _ => exact nextInv_next (inv_rspRetire (inv_setR h _ _))
  | rspBltz _ _ => exact nextInv_next (inv_rspRetireIf h _ (aligned_rspBranchTarget _ _))
  | rspBgez _ _ => exact nextInv_next (inv_rspRetireIf h _ (aligned_rspBranchTarget _ _))
  | rspBltzal _ _ => exact nextInv_next (inv_rspRetireIf (inv_setR h _ _) _ (aligned_rspBranchTarget _ _))
  | rspBgezal _ _ => exact nextInv_next (inv_rspRetireIf (inv_setR h _ _) _ (aligned_rspBranchTarget _ _))
  | rspJ _ => exact nextInv_next (inv_rspRetireIf h _ (aligned_rspJumpTarget _))
  | rspJal _ => exact nextInv_next (inv_rspRetireIf (inv_setR h _ _) _ (aligned_rspJumpTarget _))
  | rspBeq _ _ _ => exact nextInv_next (inv_rspRetireIf h _ (aligned_rspBranchTarget _ _))
  | rspBne _ _ _ => exact nextInv_next (inv_rspRetireIf h _ (aligned_rspBranchTarget _ _))
  | rspBlez _ _ => exact nextInv_next (inv_rspRetireIf h _ (aligned_rspBranchTarget _ _))
  | rspBgtz _ _ => exact nextInv_next (inv_rspRetireIf h _ (aligned_rspBranchTarget _ _))
  | rspAddi _ _ _ => exact nextInv_next (inv_rspRetire (inv_setR h _ _))
  | rspAddiu _ _ _ => exact nextInv_next (inv_rspRetire (inv_setR h _ _))
  | rspSlti _ _ _ => exact nextInv_next (inv_rspRetire (inv_setR h _ _))
  | rspSltiu _ _ _ => exact nextInv_next (inv_rspRetire (inv_setR h _ _))
  | rspAndi _ _ _ => exact nextInv_next (inv_rspRetire (inv_setR h _ _))
  | rspOri _ _ _ => exact nextInv_next (inv_rspRetire (inv_setR h _ _))
  | rspXori _ _ _ => exact nextInv_next (inv_rspRetire (inv_setR h _ _))
  | rspLui _ _ => exact nextInv_next (inv_rspRetire (inv_setR h _ _))
  | rspLb _ _ _ => exact nextInv_next (inv_rspRetire (inv_setR h _ _))
  | rspLh _ _ _ => exact nextInv_next (inv_rspRetire (inv_setR h _ _))
  | rspLw _ _ _ => exact nextInv_next (inv_rspRetire (inv_setR h _ _))
  | rspLbu _ _ _ => exact nextInv_next (inv_rspRetire (inv_setR h _ _))
  | rspLhu _ _ _ => exact nextInv_next (inv_rspRetire (inv_setR h _ _))
  | rspSb _ _ _ => exact nextInv_next (inv_rspRetire (inv_dmemWrite h _ _ _))
  | rspSh _ _ _ => exact nextInv_next (inv_rspRetire (inv_dmemWrite h _ _ _))
  | rspSw _ _ _ => exact nextInv_next (inv_rspRetire (inv_dmemWrite h _ _ _))
  | vmulf _ _ _ _ => exact nextInv_next (inv_rspRetire (inv_setV h _ _))
  | vmudl _ _ _ _ => exact nextInv_next (inv_rspRetire (inv_setV h _ _))
  | vmudn _ _ _ _ => exact nextInv_next (inv_rspRetire (inv_setV h _ _))
  | vmudh _ _ _ _ => exact nextInv_next (inv_rspRetire (inv_setV h _ _))
  | vadd _ _ _ _ => exact nextInv_next (inv_rspRetire (inv_setV h _ _))
  | vsub _ _ _ _ => exact nextInv_next (inv_rspRetire (inv_setV h _ _))
  | vsar _ _ _ _ => exact nextInv_next (inv_rspRetire h)
  | lqv _ _ _ => exact nextInv_next (inv_rspRetire (inv_setV h _ _))
  | sqv _ _ _ => exact nextInv_next (inv_rspRetire (inv_writeLanes h _ _))
  | setColorImage format size width addr =>
    have hw : (1 ≤ width ∧ width ≤ 1024) := by simpa [Instr.wellFormed] using hw
    exact nextInv_next (inv_setRender h hw h.rdp.texWidth)
  | setTextureImage format size width addr =>
    have hw : (1 ≤ width ∧ width ≤ 1024) := by simpa [Instr.wellFormed] using hw
    exact nextInv_next (inv_setRender h h.rdp.colorWidth hw)
  | setFillColor _ => exact nextInv_next (inv_setRender h h.rdp.colorWidth h.rdp.texWidth)
  | setFogColor _ => exact nextInv_next (inv_setRender h h.rdp.colorWidth h.rdp.texWidth)
  | setBlendColor _ => exact nextInv_next (inv_setRender h h.rdp.colorWidth h.rdp.texWidth)
  | setEnvColor _ => exact nextInv_next (inv_setRender h h.rdp.colorWidth h.rdp.texWidth)
  | setCombineMode _ _ => exact nextInv_next (inv_setRender h h.rdp.colorWidth h.rdp.texWidth)
  | setScissor _ _ _ _ => exact nextInv_next (inv_setRender h h.rdp.colorWidth h.rdp.texWidth)
  | setOtherModes _ => exact nextInv_next (inv_setRender h h.rdp.colorWidth h.rdp.texWidth)
  | fillRectangle _ _ _ _ => exact nextInv_next (inv_setFb h (ok_paintRect h.rdp.fb _ _ _ _ _))
  | textureRectangle _ _ _ _ _ _ _ _ _ => exact nextInv_next (inv_setFb h (ok_paintRect h.rdp.fb _ _ _ _ _))
  | syncFull  => exact nextInv_next (h.of_rdram (ok_frameWriteback _ h.rdram h.rdp.fb.1))

end Sys2Proof.Machine
end

