-- ==== Sys2Proof/Laws/Frame.lean ====
section
/-! SUPPORT. Pixels after painting, and RDRAM after the frame write-back. -/

namespace Sys2Proof.Machine

theorem pixel_eq (s : State) (x y : Nat) (hx : x < s.params.fbWidth) (hy : y < s.params.fbHeight) :
    s.pixel x y = Store.get s.rdp.fb (y * s.params.fbWidth + x) := by
  unfold State.pixel
  rw [if_pos ⟨hx, hy⟩]

/-- Two pixels with one key are one pixel. -/
theorem pixel_key_inj {w x x' y y' : Nat} (hx : x < w) (hx' : x' < w) (h : y * w + x = y' * w + x') :
    y = y' ∧ x = x' := by
  have e : ∀ a b : Nat, b < w → (a * w + b) / w = a := fun a b hb => by
    rw [Nat.mul_comm, Nat.mul_add_div (by omega), Nat.div_eq_of_lt hb, Nat.add_zero]
  have hy : y = y' := by rw [← e y x hx, h, e y' x' hx']
  subst hy
  exact ⟨rfl, by omega⟩

theorem get_paintRow (w : Nat) (fb : Pixels) (x0 x1 y : Nat) (color : Nat → Nat → Word) (hx : x1 ≤ w) (x y' : Nat)
    (h : x < w) : Store.get (paintRow w fb x0 x1 y color) (y' * w + x) =
      if y' = y ∧ x0 ≤ x ∧ x < x1 then color x y else Store.get fb (y' * w + x) := by
  have ho : ∀ (m : Pixels) (i b : Nat), b ≠ y * w + (x0 + i) →
      Store.get (Store.put m (y * w + (x0 + i)) (color (x0 + i) y)) b = Store.get m b :=
    fun m i b hb => Store.get_put_other _ hb
  split
  · rename_i hc
    obtain ⟨rfl, h1, h2⟩ := hc
    have hxx : x0 + (x - x0) = x := by omega
    have := fold_get_last (loc := fun i => y' * w + (x0 + i)) ho fb (x1 - x0) (x - x0) (color x y') (by omega)
      (fun m => by rw [hxx]; exact Store.get_put_same _ _ _)
      (fun j h3 h4 => by show y' * w + (x0 + j) ≠ y' * w + (x0 + (x - x0)); omega)
    rw [hxx] at this
    exact this
  · rename_i hc
    refine fold_get_other (loc := fun i => y * w + (x0 + i)) ho fb (x1 - x0) _ fun i hi e => hc ?_
    obtain ⟨rfl, rfl⟩ := pixel_key_inj h (by omega) e
    exact ⟨rfl, by omega, by omega⟩

/-- Every pixel after painting a rectangle (45 R421, R422). -/
theorem get_paintRect (p : Params) (fb : Pixels) (xl yl xh yh : BitVec 12) (color : Nat → Nat → Word) (x y : Nat)
    (hx : x < p.fbWidth) (hy : y < p.fbHeight) :
    Store.get (paintRect p.fbWidth fb (pixelRect p xl yl xh yh) color) (y * p.fbWidth + x) =
      if xh.toNat / 4 ≤ x ∧ x < xl.toNat / 4 ∧ yh.toNat / 4 ≤ y ∧ y < yl.toNat / 4 then color x y
      else Store.get fb (y * p.fbWidth + x) := by
  have rows : ∀ (r : PixelRect), r.x1 ≤ p.fbWidth → ∀ n, Store.get
      ((List.range n).foldl (fun acc j => paintRow p.fbWidth acc r.x0 r.x1 (r.y0 + j) color) fb) (y * p.fbWidth + x) =
        if r.y0 ≤ y ∧ y < r.y0 + n ∧ r.x0 ≤ x ∧ x < r.x1 then color x y else Store.get fb (y * p.fbWidth + x) := by
    intro r hr n
    induction n with
    | zero =>
      rw [if_neg (by omega)]
      rfl
    | succ n ih =>
      rw [List.range_succ, List.foldl_append]
      show Store.get (paintRow _ _ _ _ _ _) _ = _
      rw [get_paintRow _ _ _ _ _ _ hr _ _ hx, ih]
      by_cases h1 : y = r.y0 + n ∧ r.x0 ≤ x ∧ x < r.x1
      · rw [if_pos h1, if_pos (by omega), h1.1]
      · rw [if_neg h1]
        by_cases h2 : r.y0 ≤ y ∧ y < r.y0 + n ∧ r.x0 ≤ x ∧ x < r.x1
        · rw [if_pos h2, if_pos (by omega)]
        · rw [if_neg h2, if_neg (by omega)]
  unfold paintRect
  rw [rows _ (by simp [pixelRect])]
  by_cases hr : xh.toNat / 4 ≤ x ∧ x < xl.toNat / 4 ∧ yh.toNat / 4 ≤ y ∧ y < yl.toNat / 4
  · rw [if_pos hr, if_pos (by simp only [pixelRect]; omega)]
  · rw [if_neg hr, if_neg (by simp only [pixelRect]; omega)]

/-! ### Stores put together -/

theorem Store.get_append_left {w : Nat} {l m : List (Nat × BitVec w)} {a : Nat} (h : Store.get m a = 0#w) :
    Store.get (l ++ m) a = Store.get l a := by
  induction l with
  | nil => exact h
  | cons c l ih => rw [List.cons_append, Store.get, Store.get, ih]

theorem Store.get_append_right {w : Nat} {l m : List (Nat × BitVec w)} {a : Nat} (h : ∀ c ∈ l, c.1 ≠ a) :
    Store.get (l ++ m) a = Store.get m a := by
  induction l with
  | nil => rfl
  | cons c l ih =>
    simp only [List.mem_cons, forall_eq_or_imp] at h
    rw [List.cons_append, Store.get, if_neg h.1, ih h.2]

theorem Store.get_filter {w : Nat} (l : List (Nat × BitVec w)) (p : Nat → Bool) (a : Nat) :
    Store.get (l.filter fun c => p c.1) a = if p a = true then Store.get l a else 0#w := by
  induction l with
  | nil => simp
  | cons c l ih =>
    rw [List.filter_cons]
    by_cases hc : c.1 = a
    · subst hc
      by_cases hp : p c.1 = true
      · rw [if_pos hp, Store.get, if_pos rfl, if_pos hp, Store.get, if_pos rfl]
      · rw [if_neg hp, ih, if_neg hp, if_neg hp]
    · rw [Store.get, if_neg hc]
      split
      · rw [Store.get, if_neg hc, ih]
      · exact ih

/-! ### The frame write-back (45 R424) -/

/-- Where the bytes of one pixel lie. -/
theorem pixelCells_range {size base : Nat} {cell : Nat × Word} {c : Nat × Byte} (h : c ∈ pixelCells size base cell) :
    base + cell.1 * 4 ≤ c.1 ∧ c.1 < base + cell.1 * 4 + 4 := by
  unfold pixelCells at h
  simpa using Store.le_of_mem_ofBytes (List.mem_of_mem_filter h)

theorem get_pixelCells (size base : Nat) (cell : Nat × Word) (a : Nat) (hb : base ≤ a) (ha : a < size) :
    Store.get (pixelCells size base cell) a =
      if (a - base) / 4 = cell.1 then byteOf 4 cell.2 ((a - base) % 4) else 0#8 := by
  split
  · rename_i h
    have e : a = base + cell.1 * 4 + (a - base) % 4 := by omega
    unfold pixelCells
    rw [Store.get_filter _ (fun k => decide (k < size)) a,
      if_pos (show decide (a < size) = true from decide_eq_true ha)]
    conv => lhs; rw [e, Store.get_ofBytes]
    have h4 : (a - base) % 4 = 0 ∨ (a - base) % 4 = 1 ∨ (a - base) % 4 = 2 ∨ (a - base) % 4 = 3 := by omega
    rcases h4 with e | e | e | e <;> rw [e] <;> rfl
  · apply Store.get_eq_zero
    intro c hc
    have := pixelCells_range hc
    omega

theorem get_pixels (size base : Nat) (fb : Pixels) (hc : Store.Canonical fb) (a : Nat) (hb : base ≤ a)
    (ha : a < size) : Store.get (fb.flatMap (pixelCells size base)) a = byteOf 4 (Store.get fb ((a - base) / 4)) ((a - base) % 4) := by
  have z : ∀ i, byteOf 4 0#32 i = 0#8 := fun i => by simp [byteOf]
  induction fb with
  | nil =>
    rw [Store.get_nil, z]
    rfl
  | cons c fb ih =>
    obtain ⟨hp, hz⟩ := hc
    rw [List.pairwise_cons] at hp
    have ih' := ih ⟨hp.2, fun d hd => hz d (List.mem_cons_of_mem _ hd)⟩
    rw [List.flatMap_cons]
    by_cases h : (a - base) / 4 = c.1
    · rw [Store.get_append_left, get_pixelCells _ _ _ _ hb ha, if_pos h, Store.get, if_pos h.symm]
      rw [ih', Store.get_eq_zero (fun d hd => by have := hp.1 d hd; omega), z]
    · rw [Store.get_append_right, ih', Store.get, if_neg (Ne.symm h)]
      intro d hd hda
      have := pixelCells_range hd
      omega

/-- Every byte of RDRAM after the frame write-back of a canonical framebuffer. -/
theorem get_frameWriteback (p : Params) (rdram : Memory) (fb : Pixels) (base a : Nat) (hc : Store.Canonical fb)
    (ha : a < p.rdramSize) : Store.get (frameWriteback p rdram fb base) a =
      if base ≤ a ∧ a < base + p.frameBytes then byteOf 4 (Store.get fb ((a - base) / 4)) ((a - base) % 4)
      else Store.get rdram a := by
  have lo : Store.get (rdram.filter fun c => decide (c.1 < base)) a = if a < base then Store.get rdram a else 0#8 := by
    rw [Store.get_filter _ (fun j => decide (j < base))]
    simp
  have hi : Store.get (rdram.filter fun c => decide (base + p.frameBytes ≤ c.1)) a =
      if base + p.frameBytes ≤ a then Store.get rdram a else 0#8 := by
    rw [Store.get_filter _ (fun j => decide (base + p.frameBytes ≤ j))]
    simp
  have range : ∀ c ∈ (fb.filter fun c => decide (c.1 < p.fbPixels)).flatMap (pixelCells p.rdramSize base),
      base ≤ c.1 ∧ c.1 < base + p.frameBytes := by
    intro c hm
    rw [List.mem_flatMap] at hm
    obtain ⟨d, hd1, hd⟩ := hm
    have hd2 : d.1 < p.fbPixels := of_decide_eq_true (List.mem_filter.1 hd1).2
    have := pixelCells_range hd
    simp only [Params.frameBytes]
    omega
  have px : ∀ k, k < p.fbPixels → Store.get (fb.filter fun c => decide (c.1 < p.fbPixels)) k = Store.get fb k := fun k hk => by
    rw [Store.get_filter _ (fun j => decide (j < p.fbPixels)),
      if_pos (show decide (k < p.fbPixels) = true from decide_eq_true hk)]
  unfold frameWriteback
  rw [List.append_assoc]
  by_cases h1 : a < base
  · rw [if_neg (by omega), Store.get_append_left, lo, if_pos h1]
    rw [Store.get_append_right (fun c hm => by have := range c hm; omega), hi, if_neg (by omega)]
  · rw [Store.get_append_right (l := rdram.filter _) (fun c hm => by have := (List.mem_filter.1 hm).2; simp at this; omega)]
    by_cases h2 : a < base + p.frameBytes
    · rw [if_pos ⟨by omega, h2⟩, Store.get_append_left (by rw [hi, if_neg (by omega)]),
        get_pixels _ base _ (Store.canonical_filter _ hc) a (by omega) ha,
        px _ (by simp only [Params.frameBytes] at h2; omega)]
    · rw [if_neg (by omega), Store.get_append_right (fun c hm => by have := range c hm; omega), hi, if_pos (by omega)]

end Sys2Proof.Machine
end

