-- ==== Sys2Proof/Laws/PerInstr.lean ====
section
/-! SUPPORT. The family EncodesItsRow: the first word that the encoder gives an instruction lies in that instruction's own row
of spec/opcode_table.json, whatever its operands are. One lemma per constructor. -/

namespace Sys2Proof.Laws.EncodesItsRow

/-- The (mask, match) of each constructor's row of spec/opcode_table.json. -/
def rowOf : Instr → Word × Word
  | .sll _ _ _ => (0xFC00003F#32, 0x00000000#32)
  | .srl _ _ _ => (0xFC00003F#32, 0x00000002#32)
  | .sra _ _ _ => (0xFC00003F#32, 0x00000003#32)
  | .sllv _ _ _ => (0xFC00003F#32, 0x00000004#32)
  | .srlv _ _ _ => (0xFC00003F#32, 0x00000006#32)
  | .srav _ _ _ => (0xFC00003F#32, 0x00000007#32)
  | .jr _ => (0xFC00003F#32, 0x00000008#32)
  | .jalr _ _ => (0xFC00003F#32, 0x00000009#32)
  | .syscall _ => (0xFC00003F#32, 0x0000000C#32)
  | .brk _ => (0xFC00003F#32, 0x0000000D#32)
  | .mfhi _ => (0xFC00003F#32, 0x00000010#32)
  | .mthi _ => (0xFC00003F#32, 0x00000011#32)
  | .mflo _ => (0xFC00003F#32, 0x00000012#32)
  | .mtlo _ => (0xFC00003F#32, 0x00000013#32)
  | .mult _ _ => (0xFC00003F#32, 0x00000018#32)
  | .multu _ _ => (0xFC00003F#32, 0x00000019#32)
  | .div _ _ => (0xFC00003F#32, 0x0000001A#32)
  | .divu _ _ => (0xFC00003F#32, 0x0000001B#32)
  | .add _ _ _ => (0xFC00003F#32, 0x00000020#32)
  | .addu _ _ _ => (0xFC00003F#32, 0x00000021#32)
  | .sub _ _ _ => (0xFC00003F#32, 0x00000022#32)
  | .subu _ _ _ => (0xFC00003F#32, 0x00000023#32)
  | .and _ _ _ => (0xFC00003F#32, 0x00000024#32)
  | .or _ _ _ => (0xFC00003F#32, 0x00000025#32)
  | .xor _ _ _ => (0xFC00003F#32, 0x00000026#32)
  | .nor _ _ _ => (0xFC00003F#32, 0x00000027#32)
  | .slt _ _ _ => (0xFC00003F#32, 0x0000002A#32)
  | .sltu _ _ _ => (0xFC00003F#32, 0x0000002B#32)
  | .bltz _ _ => (0xFC1F0000#32, 0x04000000#32)
  | .bgez _ _ => (0xFC1F0000#32, 0x04010000#32)
  | .bltzal _ _ => (0xFC1F0000#32, 0x04100000#32)
  | .bgezal _ _ => (0xFC1F0000#32, 0x04110000#32)
  | .j _ => (0xFC000000#32, 0x08000000#32)
  | .jal _ => (0xFC000000#32, 0x0C000000#32)
  | .beq _ _ _ => (0xFC000000#32, 0x10000000#32)
  | .bne _ _ _ => (0xFC000000#32, 0x14000000#32)
  | .blez _ _ => (0xFC000000#32, 0x18000000#32)
  | .bgtz _ _ => (0xFC000000#32, 0x1C000000#32)
  | .addi _ _ _ => (0xFC000000#32, 0x20000000#32)
  | .addiu _ _ _ => (0xFC000000#32, 0x24000000#32)
  | .slti _ _ _ => (0xFC000000#32, 0x28000000#32)
  | .sltiu _ _ _ => (0xFC000000#32, 0x2C000000#32)
  | .andi _ _ _ => (0xFC000000#32, 0x30000000#32)
  | .ori _ _ _ => (0xFC000000#32, 0x34000000#32)
  | .xori _ _ _ => (0xFC000000#32, 0x38000000#32)
  | .lui _ _ => (0xFC000000#32, 0x3C000000#32)
  | .lb _ _ _ => (0xFC000000#32, 0x80000000#32)
  | .lh _ _ _ => (0xFC000000#32, 0x84000000#32)
  | .lw _ _ _ => (0xFC000000#32, 0x8C000000#32)
  | .lbu _ _ _ => (0xFC000000#32, 0x90000000#32)
  | .lhu _ _ _ => (0xFC000000#32, 0x94000000#32)
  | .lwu _ _ _ => (0xFC000000#32, 0x9C000000#32)
  | .sb _ _ _ => (0xFC000000#32, 0xA0000000#32)
  | .sh _ _ _ => (0xFC000000#32, 0xA4000000#32)
  | .sw _ _ _ => (0xFC000000#32, 0xAC000000#32)
  | .ll _ _ _ => (0xFC000000#32, 0xC0000000#32)
  | .sc _ _ _ => (0xFC000000#32, 0xE0000000#32)
  | .mfc0 _ _ => (0xFFE00000#32, 0x40000000#32)
  | .mtc0 _ _ => (0xFFE00000#32, 0x40800000#32)
  | .eret => (0xFFE0003F#32, 0x42000018#32)
  | .rspSll _ _ _ => (0xFC00003F#32, 0x00000000#32)
  | .rspSrl _ _ _ => (0xFC00003F#32, 0x00000002#32)
  | .rspSra _ _ _ => (0xFC00003F#32, 0x00000003#32)
  | .rspSllv _ _ _ => (0xFC00003F#32, 0x00000004#32)
  | .rspSrlv _ _ _ => (0xFC00003F#32, 0x00000006#32)
  | .rspSrav _ _ _ => (0xFC00003F#32, 0x00000007#32)
  | .rspJr _ => (0xFC00003F#32, 0x00000008#32)
  | .rspJalr _ _ => (0xFC00003F#32, 0x00000009#32)
  | .rspBreak _ => (0xFC00003F#32, 0x0000000D#32)
  | .rspAdd _ _ _ => (0xFC00003F#32, 0x00000020#32)
  | .rspAddu _ _ _ => (0xFC00003F#32, 0x00000021#32)
  | .rspSub _ _ _ => (0xFC00003F#32, 0x00000022#32)
  | .rspSubu _ _ _ => (0xFC00003F#32, 0x00000023#32)
  | .rspAnd _ _ _ => (0xFC00003F#32, 0x00000024#32)
  | .rspOr _ _ _ => (0xFC00003F#32, 0x00000025#32)
  | .rspXor _ _ _ => (0xFC00003F#32, 0x00000026#32)
  | .rspNor _ _ _ => (0xFC00003F#32, 0x00000027#32)
  | .rspSlt _ _ _ => (0xFC00003F#32, 0x0000002A#32)
  | .rspSltu _ _ _ => (0xFC00003F#32, 0x0000002B#32)
  | .rspBltz _ _ => (0xFC1F0000#32, 0x04000000#32)
  | .rspBgez _ _ => (0xFC1F0000#32, 0x04010000#32)
  | .rspBltzal _ _ => (0xFC1F0000#32, 0x04100000#32)
  | .rspBgezal _ _ => (0xFC1F0000#32, 0x04110000#32)
  | .rspJ _ => (0xFC000000#32, 0x08000000#32)
  | .rspJal _ => (0xFC000000#32, 0x0C000000#32)
  | .rspBeq _ _ _ => (0xFC000000#32, 0x10000000#32)
  | .rspBne _ _ _ => (0xFC000000#32, 0x14000000#32)
  | .rspBlez _ _ => (0xFC000000#32, 0x18000000#32)
  | .rspBgtz _ _ => (0xFC000000#32, 0x1C000000#32)
  | .rspAddi _ _ _ => (0xFC000000#32, 0x20000000#32)
  | .rspAddiu _ _ _ => (0xFC000000#32, 0x24000000#32)
  | .rspSlti _ _ _ => (0xFC000000#32, 0x28000000#32)
  | .rspSltiu _ _ _ => (0xFC000000#32, 0x2C000000#32)
  | .rspAndi _ _ _ => (0xFC000000#32, 0x30000000#32)
  | .rspOri _ _ _ => (0xFC000000#32, 0x34000000#32)
  | .rspXori _ _ _ => (0xFC000000#32, 0x38000000#32)
  | .rspLui _ _ => (0xFC000000#32, 0x3C000000#32)
  | .rspLb _ _ _ => (0xFC000000#32, 0x80000000#32)
  | .rspLh _ _ _ => (0xFC000000#32, 0x84000000#32)
  | .rspLw _ _ _ => (0xFC000000#32, 0x8C000000#32)
  | .rspLbu _ _ _ => (0xFC000000#32, 0x90000000#32)
  | .rspLhu _ _ _ => (0xFC000000#32, 0x94000000#32)
  | .rspSb _ _ _ => (0xFC000000#32, 0xA0000000#32)
  | .rspSh _ _ _ => (0xFC000000#32, 0xA4000000#32)
  | .rspSw _ _ _ => (0xFC000000#32, 0xAC000000#32)
  | .vmulf _ _ _ _ => (0xFE00003F#32, 0x4A000000#32)
  | .vmudl _ _ _ _ => (0xFE00003F#32, 0x4A000004#32)
  | .vmudn _ _ _ _ => (0xFE00003F#32, 0x4A000006#32)
  | .vmudh _ _ _ _ => (0xFE00003F#32, 0x4A000007#32)
  | .vadd _ _ _ _ => (0xFE00003F#32, 0x4A000010#32)
  | .vsub _ _ _ _ => (0xFE00003F#32, 0x4A000011#32)
  | .vsar _ _ _ _ => (0xFE00003F#32, 0x4A00001D#32)
  | .lqv _ _ _ => (0xFC00F800#32, 0xC8002000#32)
  | .sqv _ _ _ => (0xFC00F800#32, 0xE8002000#32)
  | .setColorImage _ _ _ _ => (0xFC000000#32, 0xFC000000#32)
  | .setTextureImage _ _ _ _ => (0xFC000000#32, 0xF4000000#32)
  | .setFillColor _ => (0xFC000000#32, 0xDC000000#32)
  | .setFogColor _ => (0xFC000000#32, 0xE0000000#32)
  | .setBlendColor _ => (0xFC000000#32, 0xE4000000#32)
  | .setEnvColor _ => (0xFC000000#32, 0xEC000000#32)
  | .setCombineMode _ _ => (0xFC000000#32, 0xF0000000#32)
  | .setScissor _ _ _ _ => (0xFC000000#32, 0xB4000000#32)
  | .setOtherModes _ => (0xFC000000#32, 0xBC000000#32)
  | .fillRectangle _ _ _ _ => (0xFC000000#32, 0xD8000000#32)
  | .textureRectangle _ _ _ _ _ _ _ _ _ => (0xFC000000#32, 0x90000000#32)
  | .syncFull => (0xFC000000#32, 0xA4000000#32)

/-- The encoding begins with a word of the instruction's row. -/
def Statement (i : Instr) : Prop := ∃ w ws, encode i = w :: ws ∧ w &&& (rowOf i).1 = (rowOf i).2

/-! ### What a mask leaves of a packed word -/

theorem packR_funct (op : BitVec 6) (rs rt rd sh : BitVec 5) (f : BitVec 6) :
    packR op rs rt rd sh f &&& 0xFC00003F#32 = op.setWidth 32 <<< 26 ||| f.setWidth 32 := by
  apply BitVec.eq_of_getLsbD_eq
  intro k hk
  interval_cases k <;> simp [packR, BitVec.getLsbD_of_ge]
theorem packR_rs (op : BitVec 6) (rs rt rd sh : BitVec 5) (f : BitVec 6) :
    packR op rs rt rd sh f &&& 0xFFE00000#32 = op.setWidth 32 <<< 26 ||| rs.setWidth 32 <<< 21 := by
  apply BitVec.eq_of_getLsbD_eq
  intro k hk
  interval_cases k <;> simp [packR, BitVec.getLsbD_of_ge]
theorem packI_opcode (op : BitVec 6) (rs rt : BitVec 5) (imm : BitVec 16) :
    packI op rs rt imm &&& 0xFC000000#32 = op.setWidth 32 <<< 26 := by
  apply BitVec.eq_of_getLsbD_eq
  intro k hk
  interval_cases k <;> simp [packI, BitVec.getLsbD_of_ge]
theorem packI_rt (op : BitVec 6) (rs rt : BitVec 5) (imm : BitVec 16) :
    packI op rs rt imm &&& 0xFC1F0000#32 = op.setWidth 32 <<< 26 ||| rt.setWidth 32 <<< 16 := by
  apply BitVec.eq_of_getLsbD_eq
  intro k hk
  interval_cases k <;> simp [packI, BitVec.getLsbD_of_ge]
theorem packJ_opcode (op : BitVec 6) (target : BitVec 26) :
    packJ op target &&& 0xFC000000#32 = op.setWidth 32 <<< 26 := by
  apply BitVec.eq_of_getLsbD_eq
  intro k hk
  interval_cases k <;> simp [packJ, BitVec.getLsbD_of_ge]
theorem packCode_funct (code : BitVec 20) (f : BitVec 6) :
    packCode code f &&& 0xFC00003F#32 = f.setWidth 32 := by
  apply BitVec.eq_of_getLsbD_eq
  intro k hk
  interval_cases k <;> simp [packCode, BitVec.getLsbD_of_ge]
theorem packV_funct (e : BitVec 4) (vt vs vd : BitVec 5) (f : BitVec 6) :
    packV e vt vs vd f &&& 0xFE00003F#32 = 0x4A000000#32 ||| f.setWidth 32 := by
  apply BitVec.eq_of_getLsbD_eq
  intro k hk
  interval_cases k <;> simp [packV, BitVec.getLsbD_of_ge]
theorem packQ_sub (op : BitVec 6) (base vt : BitVec 5) (off : BitVec 7) :
    packQ op base vt off &&& 0xFC00F800#32 = op.setWidth 32 <<< 26 ||| 0x2000#32 := by
  apply BitVec.eq_of_getLsbD_eq
  intro k hk
  interval_cases k <;> simp [packQ, BitVec.getLsbD_of_ge]
theorem packPair_opcode (op : BitVec 6) (hi lo : BitVec 12) :
    packPair op hi lo &&& 0xFC000000#32 = op.setWidth 32 <<< 26 := by
  apply BitVec.eq_of_getLsbD_eq
  intro k hk
  interval_cases k <;> simp [packPair, BitVec.getLsbD_of_ge]
theorem packImage_opcode (op : BitVec 6) (format : BitVec 3) (size : BitVec 2) (width : Nat) :
    packImage op format size width &&& 0xFC000000#32 = op.setWidth 32 <<< 26 := by
  apply BitVec.eq_of_getLsbD_eq
  intro k hk
  interval_cases k <;> simp [packImage, BitVec.getLsbD_of_ge]

/-! ### One lemma per constructor -/

theorem sll (rd : Reg) (rt : Reg) (shamt : BitVec 5) : Statement (.sll rd rt shamt) :=
  ⟨_, _, rfl, (packR_funct ..).trans rfl⟩
theorem srl (rd : Reg) (rt : Reg) (shamt : BitVec 5) : Statement (.srl rd rt shamt) :=
  ⟨_, _, rfl, (packR_funct ..).trans rfl⟩
theorem sra (rd : Reg) (rt : Reg) (shamt : BitVec 5) : Statement (.sra rd rt shamt) :=
  ⟨_, _, rfl, (packR_funct ..).trans rfl⟩
theorem sllv (rd : Reg) (rt : Reg) (rs : Reg) : Statement (.sllv rd rt rs) :=
  ⟨_, _, rfl, (packR_funct ..).trans rfl⟩
theorem srlv (rd : Reg) (rt : Reg) (rs : Reg) : Statement (.srlv rd rt rs) :=
  ⟨_, _, rfl, (packR_funct ..).trans rfl⟩
theorem srav (rd : Reg) (rt : Reg) (rs : Reg) : Statement (.srav rd rt rs) :=
  ⟨_, _, rfl, (packR_funct ..).trans rfl⟩
theorem jr (rs : Reg) : Statement (.jr rs) :=
  ⟨_, _, rfl, (packR_funct ..).trans rfl⟩
theorem jalr (rd : Reg) (rs : Reg) : Statement (.jalr rd rs) :=
  ⟨_, _, rfl, (packR_funct ..).trans rfl⟩
theorem syscall (code : BitVec 20) : Statement (.syscall code) :=
  ⟨_, _, rfl, (packCode_funct ..).trans rfl⟩
theorem brk (code : BitVec 20) : Statement (.brk code) :=
  ⟨_, _, rfl, (packCode_funct ..).trans rfl⟩
theorem mfhi (rd : Reg) : Statement (.mfhi rd) :=
  ⟨_, _, rfl, (packR_funct ..).trans rfl⟩
theorem mthi (rs : Reg) : Statement (.mthi rs) :=
  ⟨_, _, rfl, (packR_funct ..).trans rfl⟩
theorem mflo (rd : Reg) : Statement (.mflo rd) :=
  ⟨_, _, rfl, (packR_funct ..).trans rfl⟩
theorem mtlo (rs : Reg) : Statement (.mtlo rs) :=
  ⟨_, _, rfl, (packR_funct ..).trans rfl⟩
theorem mult (rs : Reg) (rt : Reg) : Statement (.mult rs rt) :=
  ⟨_, _, rfl, (packR_funct ..).trans rfl⟩
theorem multu (rs : Reg) (rt : Reg) : Statement (.multu rs rt) :=
  ⟨_, _, rfl, (packR_funct ..).trans rfl⟩
theorem div (rs : Reg) (rt : Reg) : Statement (.div rs rt) :=
  ⟨_, _, rfl, (packR_funct ..).trans rfl⟩
theorem divu (rs : Reg) (rt : Reg) : Statement (.divu rs rt) :=
  ⟨_, _, rfl, (packR_funct ..).trans rfl⟩
theorem add (rd : Reg) (rs : Reg) (rt : Reg) : Statement (.add rd rs rt) :=
  ⟨_, _, rfl, (packR_funct ..).trans rfl⟩
theorem addu (rd : Reg) (rs : Reg) (rt : Reg) : Statement (.addu rd rs rt) :=
  ⟨_, _, rfl, (packR_funct ..).trans rfl⟩
theorem sub (rd : Reg) (rs : Reg) (rt : Reg) : Statement (.sub rd rs rt) :=
  ⟨_, _, rfl, (packR_funct ..).trans rfl⟩
theorem subu (rd : Reg) (rs : Reg) (rt : Reg) : Statement (.subu rd rs rt) :=
  ⟨_, _, rfl, (packR_funct ..).trans rfl⟩
theorem and (rd : Reg) (rs : Reg) (rt : Reg) : Statement (.and rd rs rt) :=
  ⟨_, _, rfl, (packR_funct ..).trans rfl⟩
theorem or (rd : Reg) (rs : Reg) (rt : Reg) : Statement (.or rd rs rt) :=
  ⟨_, _, rfl, (packR_funct ..).trans rfl⟩
theorem xor (rd : Reg) (rs : Reg) (rt : Reg) : Statement (.xor rd rs rt) :=
  ⟨_, _, rfl, (packR_funct ..).trans rfl⟩
theorem nor (rd : Reg) (rs : Reg) (rt : Reg) : Statement (.nor rd rs rt) :=
  ⟨_, _, rfl, (packR_funct ..).trans rfl⟩
theorem slt (rd : Reg) (rs : Reg) (rt : Reg) : Statement (.slt rd rs rt) :=
  ⟨_, _, rfl, (packR_funct ..).trans rfl⟩
theorem sltu (rd : Reg) (rs : Reg) (rt : Reg) : Statement (.sltu rd rs rt) :=
  ⟨_, _, rfl, (packR_funct ..).trans rfl⟩
theorem bltz (rs : Reg) (off : BitVec 16) : Statement (.bltz rs off) :=
  ⟨_, _, rfl, (packI_rt ..).trans rfl⟩
theorem bgez (rs : Reg) (off : BitVec 16) : Statement (.bgez rs off) :=
  ⟨_, _, rfl, (packI_rt ..).trans rfl⟩
theorem bltzal (rs : Reg) (off : BitVec 16) : Statement (.bltzal rs off) :=
  ⟨_, _, rfl, (packI_rt ..).trans rfl⟩
theorem bgezal (rs : Reg) (off : BitVec 16) : Statement (.bgezal rs off) :=
  ⟨_, _, rfl, (packI_rt ..).trans rfl⟩
theorem j (target : BitVec 26) : Statement (.j target) :=
  ⟨_, _, rfl, (packJ_opcode ..).trans rfl⟩
theorem jal (target : BitVec 26) : Statement (.jal target) :=
  ⟨_, _, rfl, (packJ_opcode ..).trans rfl⟩
theorem beq (rs : Reg) (rt : Reg) (off : BitVec 16) : Statement (.beq rs rt off) :=
  ⟨_, _, rfl, (packI_opcode ..).trans rfl⟩
theorem bne (rs : Reg) (rt : Reg) (off : BitVec 16) : Statement (.bne rs rt off) :=
  ⟨_, _, rfl, (packI_opcode ..).trans rfl⟩
theorem blez (rs : Reg) (off : BitVec 16) : Statement (.blez rs off) :=
  ⟨_, _, rfl, (packI_opcode ..).trans rfl⟩
theorem bgtz (rs : Reg) (off : BitVec 16) : Statement (.bgtz rs off) :=
  ⟨_, _, rfl, (packI_opcode ..).trans rfl⟩
theorem addi (rt : Reg) (rs : Reg) (imm : BitVec 16) : Statement (.addi rt rs imm) :=
  ⟨_, _, rfl, (packI_opcode ..).trans rfl⟩
theorem addiu (rt : Reg) (rs : Reg) (imm : BitVec 16) : Statement (.addiu rt rs imm) :=
  ⟨_, _, rfl, (packI_opcode ..).trans rfl⟩
theorem slti (rt : Reg) (rs : Reg) (imm : BitVec 16) : Statement (.slti rt rs imm) :=
  ⟨_, _, rfl, (packI_opcode ..).trans rfl⟩
theorem sltiu (rt : Reg) (rs : Reg) (imm : BitVec 16) : Statement (.sltiu rt rs imm) :=
  ⟨_, _, rfl, (packI_opcode ..).trans rfl⟩
theorem andi (rt : Reg) (rs : Reg) (imm : BitVec 16) : Statement (.andi rt rs imm) :=
  ⟨_, _, rfl, (packI_opcode ..).trans rfl⟩
theorem ori (rt : Reg) (rs : Reg) (imm : BitVec 16) : Statement (.ori rt rs imm) :=
  ⟨_, _, rfl, (packI_opcode ..).trans rfl⟩
theorem xori (rt : Reg) (rs : Reg) (imm : BitVec 16) : Statement (.xori rt rs imm) :=
  ⟨_, _, rfl, (packI_opcode ..).trans rfl⟩
theorem lui (rt : Reg) (imm : BitVec 16) : Statement (.lui rt imm) :=
  ⟨_, _, rfl, (packI_opcode ..).trans rfl⟩
theorem lb (rt : Reg) (base : Reg) (off : BitVec 16) : Statement (.lb rt base off) :=
  ⟨_, _, rfl, (packI_opcode ..).trans rfl⟩
theorem lh (rt : Reg) (base : Reg) (off : BitVec 16) : Statement (.lh rt base off) :=
  ⟨_, _, rfl, (packI_opcode ..).trans rfl⟩
theorem lw (rt : Reg) (base : Reg) (off : BitVec 16) : Statement (.lw rt base off) :=
  ⟨_, _, rfl, (packI_opcode ..).trans rfl⟩
theorem lbu (rt : Reg) (base : Reg) (off : BitVec 16) : Statement (.lbu rt base off) :=
  ⟨_, _, rfl, (packI_opcode ..).trans rfl⟩
theorem lhu (rt : Reg) (base : Reg) (off : BitVec 16) : Statement (.lhu rt base off) :=
  ⟨_, _, rfl, (packI_opcode ..).trans rfl⟩
theorem lwu (rt : Reg) (base : Reg) (off : BitVec 16) : Statement (.lwu rt base off) :=
  ⟨_, _, rfl, (packI_opcode ..).trans rfl⟩
theorem sb (rt : Reg) (base : Reg) (off : BitVec 16) : Statement (.sb rt base off) :=
  ⟨_, _, rfl, (packI_opcode ..).trans rfl⟩
theorem sh (rt : Reg) (base : Reg) (off : BitVec 16) : Statement (.sh rt base off) :=
  ⟨_, _, rfl, (packI_opcode ..).trans rfl⟩
theorem sw (rt : Reg) (base : Reg) (off : BitVec 16) : Statement (.sw rt base off) :=
  ⟨_, _, rfl, (packI_opcode ..).trans rfl⟩
theorem ll (rt : Reg) (base : Reg) (off : BitVec 16) : Statement (.ll rt base off) :=
  ⟨_, _, rfl, (packI_opcode ..).trans rfl⟩
theorem sc (rt : Reg) (base : Reg) (off : BitVec 16) : Statement (.sc rt base off) :=
  ⟨_, _, rfl, (packI_opcode ..).trans rfl⟩
theorem mfc0 (rt : Reg) (rd : Reg) : Statement (.mfc0 rt rd) :=
  ⟨_, _, rfl, (packR_rs ..).trans rfl⟩
theorem mtc0 (rt : Reg) (rd : Reg) : Statement (.mtc0 rt rd) :=
  ⟨_, _, rfl, (packR_rs ..).trans rfl⟩
theorem eret : Statement (.eret) :=
  ⟨_, _, rfl, by decide⟩
theorem rspSll (rd : Reg) (rt : Reg) (shamt : BitVec 5) : Statement (.rspSll rd rt shamt) :=
  ⟨_, _, rfl, (packR_funct ..).trans rfl⟩
theorem rspSrl (rd : Reg) (rt : Reg) (shamt : BitVec 5) : Statement (.rspSrl rd rt shamt) :=
  ⟨_, _, rfl, (packR_funct ..).trans rfl⟩
theorem rspSra (rd : Reg) (rt : Reg) (shamt : BitVec 5) : Statement (.rspSra rd rt shamt) :=
  ⟨_, _, rfl, (packR_funct ..).trans rfl⟩
theorem rspSllv (rd : Reg) (rt : Reg) (rs : Reg) : Statement (.rspSllv rd rt rs) :=
  ⟨_, _, rfl, (packR_funct ..).trans rfl⟩
theorem rspSrlv (rd : Reg) (rt : Reg) (rs : Reg) : Statement (.rspSrlv rd rt rs) :=
  ⟨_, _, rfl, (packR_funct ..).trans rfl⟩
theorem rspSrav (rd : Reg) (rt : Reg) (rs : Reg) : Statement (.rspSrav rd rt rs) :=
  ⟨_, _, rfl, (packR_funct ..).trans rfl⟩
theorem rspJr (rs : Reg) : Statement (.rspJr rs) :=
  ⟨_, _, rfl, (packR_funct ..).trans rfl⟩
theorem rspJalr (rd : Reg) (rs : Reg) : Statement (.rspJalr rd rs) :=
  ⟨_, _, rfl, (packR_funct ..).trans rfl⟩
theorem rspBreak (code : BitVec 20) : Statement (.rspBreak code) :=
  ⟨_, _, rfl, (packCode_funct ..).trans rfl⟩
theorem rspAdd (rd : Reg) (rs : Reg) (rt : Reg) : Statement (.rspAdd rd rs rt) :=
  ⟨_, _, rfl, (packR_funct ..).trans rfl⟩
theorem rspAddu (rd : Reg) (rs : Reg) (rt : Reg) : Statement (.rspAddu rd rs rt) :=
  ⟨_, _, rfl, (packR_funct ..).trans rfl⟩
theorem rspSub (rd : Reg) (rs : Reg) (rt : Reg) : Statement (.rspSub rd rs rt) :=
  ⟨_, _, rfl, (packR_funct ..).trans rfl⟩
theorem rspSubu (rd : Reg) (rs : Reg) (rt : Reg) : Statement (.rspSubu rd rs rt) :=
  ⟨_, _, rfl, (packR_funct ..).trans rfl⟩
theorem rspAnd (rd : Reg) (rs : Reg) (rt : Reg) : Statement (.rspAnd rd rs rt) :=
  ⟨_, _, rfl, (packR_funct ..).trans rfl⟩
theorem rspOr (rd : Reg) (rs : Reg) (rt : Reg) : Statement (.rspOr rd rs rt) :=
  ⟨_, _, rfl, (packR_funct ..).trans rfl⟩
theorem rspXor (rd : Reg) (rs : Reg) (rt : Reg) : Statement (.rspXor rd rs rt) :=
  ⟨_, _, rfl, (packR_funct ..).trans rfl⟩
theorem rspNor (rd : Reg) (rs : Reg) (rt : Reg) : Statement (.rspNor rd rs rt) :=
  ⟨_, _, rfl, (packR_funct ..).trans rfl⟩
theorem rspSlt (rd : Reg) (rs : Reg) (rt : Reg) : Statement (.rspSlt rd rs rt) :=
  ⟨_, _, rfl, (packR_funct ..).trans rfl⟩
theorem rspSltu (rd : Reg) (rs : Reg) (rt : Reg) : Statement (.rspSltu rd rs rt) :=
  ⟨_, _, rfl, (packR_funct ..).trans rfl⟩
theorem rspBltz (rs : Reg) (off : BitVec 16) : Statement (.rspBltz rs off) :=
  ⟨_, _, rfl, (packI_rt ..).trans rfl⟩
theorem rspBgez (rs : Reg) (off : BitVec 16) : Statement (.rspBgez rs off) :=
  ⟨_, _, rfl, (packI_rt ..).trans rfl⟩
theorem rspBltzal (rs : Reg) (off : BitVec 16) : Statement (.rspBltzal rs off) :=
  ⟨_, _, rfl, (packI_rt ..).trans rfl⟩
theorem rspBgezal (rs : Reg) (off : BitVec 16) : Statement (.rspBgezal rs off) :=
  ⟨_, _, rfl, (packI_rt ..).trans rfl⟩
theorem rspJ (target : BitVec 26) : Statement (.rspJ target) :=
  ⟨_, _, rfl, (packJ_opcode ..).trans rfl⟩
theorem rspJal (target : BitVec 26) : Statement (.rspJal target) :=
  ⟨_, _, rfl, (packJ_opcode ..).trans rfl⟩
theorem rspBeq (rs : Reg) (rt : Reg) (off : BitVec 16) : Statement (.rspBeq rs rt off) :=
  ⟨_, _, rfl, (packI_opcode ..).trans rfl⟩
theorem rspBne (rs : Reg) (rt : Reg) (off : BitVec 16) : Statement (.rspBne rs rt off) :=
  ⟨_, _, rfl, (packI_opcode ..).trans rfl⟩
theorem rspBlez (rs : Reg) (off : BitVec 16) : Statement (.rspBlez rs off) :=
  ⟨_, _, rfl, (packI_opcode ..).trans rfl⟩
theorem rspBgtz (rs : Reg) (off : BitVec 16) : Statement (.rspBgtz rs off) :=
  ⟨_, _, rfl, (packI_opcode ..).trans rfl⟩
theorem rspAddi (rt : Reg) (rs : Reg) (imm : BitVec 16) : Statement (.rspAddi rt rs imm) :=
  ⟨_, _, rfl, (packI_opcode ..).trans rfl⟩
theorem rspAddiu (rt : Reg) (rs : Reg) (imm : BitVec 16) : Statement (.rspAddiu rt rs imm) :=
  ⟨_, _, rfl, (packI_opcode ..).trans rfl⟩
theorem rspSlti (rt : Reg) (rs : Reg) (imm : BitVec 16) : Statement (.rspSlti rt rs imm) :=
  ⟨_, _, rfl, (packI_opcode ..).trans rfl⟩
theorem rspSltiu (rt : Reg) (rs : Reg) (imm : BitVec 16) : Statement (.rspSltiu rt rs imm) :=
  ⟨_, _, rfl, (packI_opcode ..).trans rfl⟩
theorem rspAndi (rt : Reg) (rs : Reg) (imm : BitVec 16) : Statement (.rspAndi rt rs imm) :=
  ⟨_, _, rfl, (packI_opcode ..).trans rfl⟩
theorem rspOri (rt : Reg) (rs : Reg) (imm : BitVec 16) : Statement (.rspOri rt rs imm) :=
  ⟨_, _, rfl, (packI_opcode ..).trans rfl⟩
theorem rspXori (rt : Reg) (rs : Reg) (imm : BitVec 16) : Statement (.rspXori rt rs imm) :=
  ⟨_, _, rfl, (packI_opcode ..).trans rfl⟩
theorem rspLui (rt : Reg) (imm : BitVec 16) : Statement (.rspLui rt imm) :=
  ⟨_, _, rfl, (packI_opcode ..).trans rfl⟩
theorem rspLb (rt : Reg) (base : Reg) (off : BitVec 16) : Statement (.rspLb rt base off) :=
  ⟨_, _, rfl, (packI_opcode ..).trans rfl⟩
theorem rspLh (rt : Reg) (base : Reg) (off : BitVec 16) : Statement (.rspLh rt base off) :=
  ⟨_, _, rfl, (packI_opcode ..).trans rfl⟩
theorem rspLw (rt : Reg) (base : Reg) (off : BitVec 16) : Statement (.rspLw rt base off) :=
  ⟨_, _, rfl, (packI_opcode ..).trans rfl⟩
theorem rspLbu (rt : Reg) (base : Reg) (off : BitVec 16) : Statement (.rspLbu rt base off) :=
  ⟨_, _, rfl, (packI_opcode ..).trans rfl⟩
theorem rspLhu (rt : Reg) (base : Reg) (off : BitVec 16) : Statement (.rspLhu rt base off) :=
  ⟨_, _, rfl, (packI_opcode ..).trans rfl⟩
theorem rspSb (rt : Reg) (base : Reg) (off : BitVec 16) : Statement (.rspSb rt base off) :=
  ⟨_, _, rfl, (packI_opcode ..).trans rfl⟩
theorem rspSh (rt : Reg) (base : Reg) (off : BitVec 16) : Statement (.rspSh rt base off) :=
  ⟨_, _, rfl, (packI_opcode ..).trans rfl⟩
theorem rspSw (rt : Reg) (base : Reg) (off : BitVec 16) : Statement (.rspSw rt base off) :=
  ⟨_, _, rfl, (packI_opcode ..).trans rfl⟩
theorem vmulf (vd : Reg) (vs : Reg) (vt : Reg) (e : BitVec 4) : Statement (.vmulf vd vs vt e) :=
  ⟨_, _, rfl, (packV_funct ..).trans rfl⟩
theorem vmudl (vd : Reg) (vs : Reg) (vt : Reg) (e : BitVec 4) : Statement (.vmudl vd vs vt e) :=
  ⟨_, _, rfl, (packV_funct ..).trans rfl⟩
theorem vmudn (vd : Reg) (vs : Reg) (vt : Reg) (e : BitVec 4) : Statement (.vmudn vd vs vt e) :=
  ⟨_, _, rfl, (packV_funct ..).trans rfl⟩
theorem vmudh (vd : Reg) (vs : Reg) (vt : Reg) (e : BitVec 4) : Statement (.vmudh vd vs vt e) :=
  ⟨_, _, rfl, (packV_funct ..).trans rfl⟩
theorem vadd (vd : Reg) (vs : Reg) (vt : Reg) (e : BitVec 4) : Statement (.vadd vd vs vt e) :=
  ⟨_, _, rfl, (packV_funct ..).trans rfl⟩
theorem vsub (vd : Reg) (vs : Reg) (vt : Reg) (e : BitVec 4) : Statement (.vsub vd vs vt e) :=
  ⟨_, _, rfl, (packV_funct ..).trans rfl⟩
theorem vsar (vd : Reg) (vs : Reg) (vt : Reg) (e : BitVec 4) : Statement (.vsar vd vs vt e) :=
  ⟨_, _, rfl, (packV_funct ..).trans rfl⟩
theorem lqv (vt : Reg) (base : Reg) (off : BitVec 7) : Statement (.lqv vt base off) :=
  ⟨_, _, rfl, (packQ_sub ..).trans rfl⟩
theorem sqv (vt : Reg) (base : Reg) (off : BitVec 7) : Statement (.sqv vt base off) :=
  ⟨_, _, rfl, (packQ_sub ..).trans rfl⟩
theorem setColorImage (format : BitVec 3) (size : BitVec 2) (width : Nat) (addr : BitVec 26) : Statement (.setColorImage format size width addr) :=
  ⟨_, _, rfl, (packImage_opcode ..).trans rfl⟩
theorem setTextureImage (format : BitVec 3) (size : BitVec 2) (width : Nat) (addr : BitVec 26) : Statement (.setTextureImage format size width addr) :=
  ⟨_, _, rfl, (packImage_opcode ..).trans rfl⟩
theorem setFillColor (color : Word) : Statement (.setFillColor color) :=
  ⟨_, _, rfl, (packJ_opcode ..).trans rfl⟩
theorem setFogColor (color : Word) : Statement (.setFogColor color) :=
  ⟨_, _, rfl, (packJ_opcode ..).trans rfl⟩
theorem setBlendColor (color : Word) : Statement (.setBlendColor color) :=
  ⟨_, _, rfl, (packJ_opcode ..).trans rfl⟩
theorem setEnvColor (color : Word) : Statement (.setEnvColor color) :=
  ⟨_, _, rfl, (packJ_opcode ..).trans rfl⟩
theorem setCombineMode (c0 : BitVec 24) (c1 : Word) : Statement (.setCombineMode c0 c1) :=
  ⟨_, _, rfl, (packJ_opcode ..).trans rfl⟩
theorem setScissor (xh : BitVec 12) (yh : BitVec 12) (xl : BitVec 12) (yl : BitVec 12) : Statement (.setScissor xh yh xl yl) :=
  ⟨_, _, rfl, (packPair_opcode ..).trans rfl⟩
theorem setOtherModes (mode : Word) : Statement (.setOtherModes mode) :=
  ⟨_, _, rfl, (packJ_opcode ..).trans rfl⟩
theorem fillRectangle (xl : BitVec 12) (yl : BitVec 12) (xh : BitVec 12) (yh : BitVec 12) : Statement (.fillRectangle xl yl xh yh) :=
  ⟨_, _, rfl, (packPair_opcode ..).trans rfl⟩
theorem textureRectangle (xl : BitVec 12) (yl : BitVec 12) (tile : BitVec 3) (xh : BitVec 12) (yh : BitVec 12) (s : BitVec 16) (t : BitVec 16) (dsdx : BitVec 16) (dtdy : BitVec 16) : Statement (.textureRectangle xl yl tile xh yh s t dsdx dtdy) :=
  ⟨_, _, rfl, (packPair_opcode ..).trans rfl⟩
theorem syncFull : Statement (.syncFull) :=
  ⟨_, _, rfl, (packJ_opcode ..).trans rfl⟩

end Sys2Proof.Laws.EncodesItsRow
end

