-- ==== Sys2Proof/Tests/Slice0.lean ====
section
/-! SUPPORT. Tests: ill-formed instructions refused, words of the spec's encodings decoded, single steps with the results of
spec/95_test_vectors.md (rows T1 to T31, scenarios S1 to S6), and a witness for the hypotheses of every statement. -/

namespace Sys2Proof.Tests

open Sys2Proof.Machine

set_option Elab.async false

/-! ### Well-formedness -/

theorem test_wellFormed_refuses_width_zero : (Instr.setColorImage 0#3 3#2 0 0#26).wellFormed = false := by decide
theorem test_wellFormed_refuses_width_1025 : (Instr.setColorImage 0#3 3#2 1025 0#26).wellFormed = false := by decide
theorem test_wellFormed_refuses_texture_width_zero : (Instr.setTextureImage 0#3 3#2 0 0#26).wellFormed = false := by decide
theorem test_wellFormed_refuses_texture_width_1025 : (Instr.setTextureImage 0#3 3#2 1025 0#26).wellFormed = false := by
  decide
theorem test_wellFormed_admits_the_bounds :
    (Instr.setColorImage 0#3 3#2 1 0#26).wellFormed = true ∧ (Instr.setTextureImage 0#3 3#2 1024 0#26).wellFormed = true := by
  decide

/-! ### Decoding: the words of the worked examples of 40 to 45 -/

theorem test_decode_shifts :
    decodeCpuWord 0x00021900#32 = .ok (.sll 3#5 2#5 4#5)
    ∧ decodeCpuWord 0x00021902#32 = .ok (.srl 3#5 2#5 4#5)
    ∧ decodeCpuWord 0x00021903#32 = .ok (.sra 3#5 2#5 4#5)
    ∧ decodeCpuWord 0x00221804#32 = .ok (.sllv 3#5 2#5 1#5)
    ∧ decodeCpuWord 0x00221806#32 = .ok (.srlv 3#5 2#5 1#5)
    ∧ decodeCpuWord 0x00221807#32 = .ok (.srav 3#5 2#5 1#5) := by
  decide
theorem test_decode_three_register :
    decodeCpuWord 0x00221820#32 = .ok (.add 3#5 1#5 2#5)
    ∧ decodeCpuWord 0x00221821#32 = .ok (.addu 3#5 1#5 2#5)
    ∧ decodeCpuWord 0x00221822#32 = .ok (.sub 3#5 1#5 2#5)
    ∧ decodeCpuWord 0x00221823#32 = .ok (.subu 3#5 1#5 2#5)
    ∧ decodeCpuWord 0x00221824#32 = .ok (.and 3#5 1#5 2#5)
    ∧ decodeCpuWord 0x00221825#32 = .ok (.or 3#5 1#5 2#5)
    ∧ decodeCpuWord 0x00221826#32 = .ok (.xor 3#5 1#5 2#5)
    ∧ decodeCpuWord 0x00221827#32 = .ok (.nor 3#5 1#5 2#5)
    ∧ decodeCpuWord 0x0022182A#32 = .ok (.slt 3#5 1#5 2#5)
    ∧ decodeCpuWord 0x0022182B#32 = .ok (.sltu 3#5 1#5 2#5) := by
  decide
theorem test_decode_hi_lo :
    decodeCpuWord 0x00001810#32 = .ok (.mfhi 3#5)
    ∧ decodeCpuWord 0x00200011#32 = .ok (.mthi 1#5)
    ∧ decodeCpuWord 0x00001812#32 = .ok (.mflo 3#5)
    ∧ decodeCpuWord 0x00200013#32 = .ok (.mtlo 1#5)
    ∧ decodeCpuWord 0x00220018#32 = .ok (.mult 1#5 2#5)
    ∧ decodeCpuWord 0x00220019#32 = .ok (.multu 1#5 2#5)
    ∧ decodeCpuWord 0x0022001A#32 = .ok (.div 1#5 2#5)
    ∧ decodeCpuWord 0x0022001B#32 = .ok (.divu 1#5 2#5) := by
  decide
theorem test_decode_immediates :
    decodeCpuWord 0x20220064#32 = .ok (.addi 2#5 1#5 100#16)
    ∧ decodeCpuWord 0x2422FFFF#32 = .ok (.addiu 2#5 1#5 0xFFFF#16)
    ∧ decodeCpuWord 0x2822FFFF#32 = .ok (.slti 2#5 1#5 0xFFFF#16)
    ∧ decodeCpuWord 0x2C22FFFF#32 = .ok (.sltiu 2#5 1#5 0xFFFF#16)
    ∧ decodeCpuWord 0x302200FF#32 = .ok (.andi 2#5 1#5 0xFF#16)
    ∧ decodeCpuWord 0x342200FF#32 = .ok (.ori 2#5 1#5 0xFF#16)
    ∧ decodeCpuWord 0x382200FF#32 = .ok (.xori 2#5 1#5 0xFF#16)
    ∧ decodeCpuWord 0x3C021234#32 = .ok (.lui 2#5 0x1234#16) := by
  decide
theorem test_decode_loads_stores :
    decodeCpuWord 0x80220003#32 = .ok (.lb 2#5 1#5 3#16)
    ∧ decodeCpuWord 0x90220003#32 = .ok (.lbu 2#5 1#5 3#16)
    ∧ decodeCpuWord 0x84220002#32 = .ok (.lh 2#5 1#5 2#16)
    ∧ decodeCpuWord 0x94220002#32 = .ok (.lhu 2#5 1#5 2#16)
    ∧ decodeCpuWord 0x8C22FFFC#32 = .ok (.lw 2#5 1#5 0xFFFC#16)
    ∧ decodeCpuWord 0x9C220000#32 = .ok (.lwu 2#5 1#5 0#16)
    ∧ decodeCpuWord 0xA0220003#32 = .ok (.sb 2#5 1#5 3#16)
    ∧ decodeCpuWord 0xA4220002#32 = .ok (.sh 2#5 1#5 2#16)
    ∧ decodeCpuWord 0xAC220000#32 = .ok (.sw 2#5 1#5 0#16)
    ∧ decodeCpuWord 0xC0220000#32 = .ok (.ll 2#5 1#5 0#16)
    ∧ decodeCpuWord 0xE0220000#32 = .ok (.sc 2#5 1#5 0#16) := by
  decide
theorem test_decode_branches :
    decodeCpuWord 0x10220003#32 = .ok (.beq 1#5 2#5 3#16)
    ∧ decodeCpuWord 0x1422FFFE#32 = .ok (.bne 1#5 2#5 0xFFFE#16)
    ∧ decodeCpuWord 0x18200003#32 = .ok (.blez 1#5 3#16)
    ∧ decodeCpuWord 0x1C200003#32 = .ok (.bgtz 1#5 3#16)
    ∧ decodeCpuWord 0x04200003#32 = .ok (.bltz 1#5 3#16)
    ∧ decodeCpuWord 0x04210003#32 = .ok (.bgez 1#5 3#16)
    ∧ decodeCpuWord 0x04300003#32 = .ok (.bltzal 1#5 3#16)
    ∧ decodeCpuWord 0x04310003#32 = .ok (.bgezal 1#5 3#16)
    ∧ decodeCpuWord 0x08000400#32 = .ok (.j 0x400#26)
    ∧ decodeCpuWord 0x0C000400#32 = .ok (.jal 0x400#26)
    ∧ decodeCpuWord 0x03E00008#32 = .ok (.jr 31#5)
    ∧ decodeCpuWord 0x0040F809#32 = .ok (.jalr 31#5 2#5) := by
  decide
theorem test_decode_system :
    decodeCpuWord 0x40086000#32 = .ok (.mfc0 8#5 12#5)
    ∧ decodeCpuWord 0x40886000#32 = .ok (.mtc0 8#5 12#5)
    ∧ decodeCpuWord 0x408867FF#32 = .ok (.mtc0 8#5 12#5)
    ∧ decodeCpuWord 0x42000018#32 = .ok .eret
    ∧ decodeCpuWord 0x421FFFD8#32 = .ok .eret
    ∧ decodeCpuWord 0x0000000C#32 = .ok (.syscall 0#20)
    ∧ decodeCpuWord 0x03FFFFCC#32 = .ok (.syscall 0xFFFFF#20)
    ∧ decodeCpuWord 0x0000000D#32 = .ok (.brk 0#20) := by
  decide
/-- Whether a decoder answers for none of the words. -/
def rejects (decode : Word → Option Instr) (ws : List Word) : Bool := ws.all fun w => (decode w).isNone

/-- Words of rows T18 and T17 that no map names. -/
theorem test_decode_reserved :
    rejects (fun w => (decodeCpuWord w).toOption) [0x0000000F#32, 0xBC000000#32, 0x0022182D#32, 0x0022001C#32, 0x00000034#32, 0x04220003#32, 0x40286000#32, 0x42000002#32,
      0x44000000#32, 0x48000000#32, 0x50000003#32, 0x7C000000#32, 0x88220000#32, 0xDC220000#32, 0xFC220000#32, 0xFFFFFFFF#32,
      0x42200018#32, 0x42FFFFD8#32] = true := by
  decide
theorem test_decode_rsp_registers :
    decodeRspWord 0x00021900#32 = .ok (.rspSll 3#5 2#5 4#5)
    ∧ decodeRspWord 0x00021902#32 = .ok (.rspSrl 3#5 2#5 4#5)
    ∧ decodeRspWord 0x00021903#32 = .ok (.rspSra 3#5 2#5 4#5)
    ∧ decodeRspWord 0x00221804#32 = .ok (.rspSllv 3#5 2#5 1#5)
    ∧ decodeRspWord 0x00221806#32 = .ok (.rspSrlv 3#5 2#5 1#5)
    ∧ decodeRspWord 0x00221807#32 = .ok (.rspSrav 3#5 2#5 1#5)
    ∧ decodeRspWord 0x00221820#32 = .ok (.rspAdd 3#5 1#5 2#5)
    ∧ decodeRspWord 0x00221821#32 = .ok (.rspAddu 3#5 1#5 2#5)
    ∧ decodeRspWord 0x00221822#32 = .ok (.rspSub 3#5 1#5 2#5)
    ∧ decodeRspWord 0x00221823#32 = .ok (.rspSubu 3#5 1#5 2#5)
    ∧ decodeRspWord 0x00221824#32 = .ok (.rspAnd 3#5 1#5 2#5)
    ∧ decodeRspWord 0x00221825#32 = .ok (.rspOr 3#5 1#5 2#5)
    ∧ decodeRspWord 0x00221826#32 = .ok (.rspXor 3#5 1#5 2#5)
    ∧ decodeRspWord 0x00221827#32 = .ok (.rspNor 3#5 1#5 2#5)
    ∧ decodeRspWord 0x0022182A#32 = .ok (.rspSlt 3#5 1#5 2#5)
    ∧ decodeRspWord 0x0022182B#32 = .ok (.rspSltu 3#5 1#5 2#5) := by
  decide
theorem test_decode_rsp_immediates :
    decodeRspWord 0x20220064#32 = .ok (.rspAddi 2#5 1#5 100#16)
    ∧ decodeRspWord 0x2422FFFF#32 = .ok (.rspAddiu 2#5 1#5 0xFFFF#16)
    ∧ decodeRspWord 0x2822FFFF#32 = .ok (.rspSlti 2#5 1#5 0xFFFF#16)
    ∧ decodeRspWord 0x2C22FFFF#32 = .ok (.rspSltiu 2#5 1#5 0xFFFF#16)
    ∧ decodeRspWord 0x302200FF#32 = .ok (.rspAndi 2#5 1#5 0xFF#16)
    ∧ decodeRspWord 0x342200FF#32 = .ok (.rspOri 2#5 1#5 0xFF#16)
    ∧ decodeRspWord 0x382200FF#32 = .ok (.rspXori 2#5 1#5 0xFF#16)
    ∧ decodeRspWord 0x3C021234#32 = .ok (.rspLui 2#5 0x1234#16) := by
  decide
theorem test_decode_rsp_memory_control :
    decodeRspWord 0x80220003#32 = .ok (.rspLb 2#5 1#5 3#16)
    ∧ decodeRspWord 0x90220003#32 = .ok (.rspLbu 2#5 1#5 3#16)
    ∧ decodeRspWord 0x84220002#32 = .ok (.rspLh 2#5 1#5 2#16)
    ∧ decodeRspWord 0x94220002#32 = .ok (.rspLhu 2#5 1#5 2#16)
    ∧ decodeRspWord 0x8C220000#32 = .ok (.rspLw 2#5 1#5 0#16)
    ∧ decodeRspWord 0xA0220003#32 = .ok (.rspSb 2#5 1#5 3#16)
    ∧ decodeRspWord 0xA4220002#32 = .ok (.rspSh 2#5 1#5 2#16)
    ∧ decodeRspWord 0xAC220000#32 = .ok (.rspSw 2#5 1#5 0#16)
    ∧ decodeRspWord 0x10220003#32 = .ok (.rspBeq 1#5 2#5 3#16)
    ∧ decodeRspWord 0x14220003#32 = .ok (.rspBne 1#5 2#5 3#16)
    ∧ decodeRspWord 0x18200003#32 = .ok (.rspBlez 1#5 3#16)
    ∧ decodeRspWord 0x1C200003#32 = .ok (.rspBgtz 1#5 3#16)
    ∧ decodeRspWord 0x04200003#32 = .ok (.rspBltz 1#5 3#16)
    ∧ decodeRspWord 0x04210003#32 = .ok (.rspBgez 1#5 3#16)
    ∧ decodeRspWord 0x04300003#32 = .ok (.rspBltzal 1#5 3#16)
    ∧ decodeRspWord 0x04310003#32 = .ok (.rspBgezal 1#5 3#16)
    ∧ decodeRspWord 0x080007FF#32 = .ok (.rspJ 0x7FF#26)
    ∧ decodeRspWord 0x0C000010#32 = .ok (.rspJal 0x10#26)
    ∧ decodeRspWord 0x00400008#32 = .ok (.rspJr 2#5)
    ∧ decodeRspWord 0x00401009#32 = .ok (.rspJalr 2#5 2#5)
    ∧ decodeRspWord 0x0000000D#32 = .ok (.rspBreak 0#20) := by
  decide
theorem test_decode_rsp_vector :
    decodeRspWord 0x4A0208D0#32 = .ok (.vadd 3#5 1#5 2#5 0#4)
    ∧ decodeRspWord 0x4A0208D1#32 = .ok (.vsub 3#5 1#5 2#5 0#4)
    ∧ decodeRspWord 0x4A0208C0#32 = .ok (.vmulf 3#5 1#5 2#5 0#4)
    ∧ decodeRspWord 0x4A0208C4#32 = .ok (.vmudl 3#5 1#5 2#5 0#4)
    ∧ decodeRspWord 0x4A0208C6#32 = .ok (.vmudn 3#5 1#5 2#5 0#4)
    ∧ decodeRspWord 0x4A0208C7#32 = .ok (.vmudh 3#5 1#5 2#5 0#4)
    ∧ decodeRspWord 0x4A0208DD#32 = .ok (.vsar 3#5 1#5 2#5 0#4)
    ∧ decodeRspWord 0x4BE208D0#32 = .ok (.vadd 3#5 1#5 2#5 15#4)
    ∧ decodeRspWord 0xC8412001#32 = .ok (.lqv 1#5 2#5 1#7)
    ∧ decodeRspWord 0xC8412781#32 = .ok (.lqv 1#5 2#5 1#7)
    ∧ decodeRspWord 0xE8432002#32 = .ok (.sqv 3#5 2#5 2#7) := by
  decide
/-- The unrecognised RSP words of T23. -/
theorem test_decode_rsp_unknown :
    rejects (fun w => (decodeRspWord w).toOption) [0x00220018#32, 0x0000000C#32, 0x40086000#32, 0x9C220000#32, 0x04220003#32, 0x48020800#32, 0x4A0208D3#32, 0xC8411801#32,
      0xFFFFFFFF#32] = true := by
  decide
theorem test_decode_rdp_images :
    decodeRdpCommand 0xFC18003F#32 [0x00100000#32] = .ok (.setColorImage 0#3 3#2 64 0x100000#26)
    ∧ decodeRdpCommand 0xFFFFFFFF#32 [0xFFFFFFFF#32] = .ok (.setColorImage 7#3 3#2 1024 0x3FFFFFF#26)
    ∧ decodeRdpCommand 0xF410001F#32 [0x00080000#32] = .ok (.setTextureImage 0#3 2#2 32 0x080000#26) := by
  decide
theorem test_decode_rdp_colors :
    decodeRdpCommand 0xDC000000#32 [0x112233FF#32] = .ok (.setFillColor 0x112233FF#32)
    ∧ decodeRdpCommand 0xE0000000#32 [0x11#32] = .ok (.setFogColor 0x11#32)
    ∧ decodeRdpCommand 0xE4000000#32 [0x22#32] = .ok (.setBlendColor 0x22#32)
    ∧ decodeRdpCommand 0xEC000000#32 [0x33#32] = .ok (.setEnvColor 0x33#32)
    ∧ decodeRdpCommand 0xF0ABCDEF#32 [0x44#32] = .ok (.setCombineMode 0xABCDEF#24 0x44#32)
    ∧ decodeRdpCommand 0xBC123456#32 [0x55#32] = .ok (.setOtherModes 0x55#32) := by
  decide
theorem test_decode_rdp_rectangles :
    decodeRdpCommand 0xB4000000#32 [0x005003C0#32] = .ok (.setScissor 0#12 0#12 1280#12 960#12)
    ∧ decodeRdpCommand 0xD8010014#32 [0x0000800C#32] = .ok (.fillRectangle 16#12 20#12 8#12 12#12)
    ∧ decodeRdpCommand 0x90030058#32 [0x03028050#32, 0x00A0FFC0#32, 0x04000200#32]
      = .ok (.textureRectangle 48#12 88#12 3#3 40#12 80#12 0xA0#16 0xFFC0#16 0x400#16 0x200#16)
    ∧ decodeRdpCommand 0xA4000000#32 [0#32] = .ok .syncFull := by
  decide
theorem test_decode_rdp_unknown : decodeRdpCommand 0x94000000#32 [0#32, 0#32, 0#32] = .error (.unknownRdpOpcode 0x25#6) := by
  decide
/-- A row's word that two blocks share is the CPU's (log 14); one that only the RSP knows is the RSP's. -/
theorem test_decodeTableWord :
    decodeTableWord 32 0x00221820 = some (.add 3#5 1#5 2#5) ∧ decodeTableWord 32 0x4A0208D0 = some (.vadd 3#5 1#5 2#5 0#4)
    ∧ decodeTableWord 32 0xDC000000 = some (.setFillColor 0#32) := by
  decide

/-! ### One CPU step (the start state of 95_test_vectors: Status 0, the word at 0x80001000) -/

/-- The state of the vectors, with registers preset. -/
def cpuAt (w : Word) (regs : List (Reg × DWord)) : State :=
  let s := { State.reset with
    cpu := { State.reset.cpu with pc := 0x80001000#32, cop0 := State.reset.cpu.cop0.set 12 0#32 }
    rdram := writeBytes [] 0x400000 (fun i => 0x1000 + i) 4 w }
  regs.foldl (fun t p => t.setX p.1 p.2) s

/-- What `f` reads after one step; none if the step stopped. -/
def after (s : State) (f : State → α) : Option α :=
  match step s with
  | .next t => some (f t)
  | _ => none

/-- `x[3]` after `op x[1], x[2]`. -/
def x3 (w : Word) (a b : DWord) : Option DWord := after (cpuAt w [(1#5, a), (2#5, b), (3#5, 0x55#64)]) (·.getX 3#5)

/-- `x[2]` after `op x[1], imm`. -/
def x2 (w : Word) (a : DWord) : Option DWord := after (cpuAt w [(1#5, a), (2#5, 0x55#64)]) (·.getX 2#5)

/-- HI and LO. -/
def hiLo (w : Word) (a b : DWord) : Option (DWord × DWord) :=
  after (cpuAt w [(1#5, a), (2#5, b)]) fun t => (t.cpu.hi, t.cpu.lo)

/-- pc and the delay flag, with `x[2] = 5`. -/
def flow (w : Word) (a : DWord) : Option (Word × Bool × Word) :=
  after (cpuAt w [(1#5, a), (2#5, 5#64)]) fun t => (t.cpu.pc, t.cpu.delayFlag, t.cpu.pendingTarget)

/-- The exception of a step: pc, Status, stored Cause, EPC. -/
def trap (s : State) : Option (Word × Word × Word × Word) :=
  after s fun t => (t.cpu.pc, t.status, t.cause, t.epc)

theorem test_add :
    x3 0x00221820#32 0x000000007FFFFFFF#64 0xFFFFFFFF80000000#64 = some 0xFFFFFFFFFFFFFFFF#64
    ∧ x3 0x00221820#32 0x000000017FFFFFFF#64 0x0000000000000000#64 = some 0x000000007FFFFFFF#64
    ∧ x3 0x00221820#32 0x123456787FFFFFFF#64 0x0000000000000001#64 = some 0x0000000000000055#64 := by
  decide
theorem test_addu :
    x3 0x00221821#32 0x000000007FFFFFFF#64 0x0000000000000001#64 = some 0xFFFFFFFF80000000#64
    ∧ x3 0x00221821#32 0xFFFFFFFF80000000#64 0xFFFFFFFF80000000#64 = some 0x0000000000000000#64 := by
  decide
theorem test_sub :
    x3 0x00221822#32 0x0000000000000005#64 0x0000000000000007#64 = some 0xFFFFFFFFFFFFFFFE#64
    ∧ x3 0x00221822#32 0x0000000000000000#64 0xFFFFFFFF80000000#64 = some 0x0000000000000055#64 := by
  decide
theorem test_subu :
    x3 0x00221823#32 0xFFFFFFFF80000000#64 0x0000000000000001#64 = some 0x000000007FFFFFFF#64 := by
  decide
theorem test_logical :
    x3 0x00221824#32 0xFFFFFFFF80000000#64 0x0000000080000000#64 = some 0x0000000080000000#64
    ∧ x3 0x00221825#32 0x000000000000F0F0#64 0x0000000000000FF0#64 = some 0x000000000000FFF0#64
    ∧ x3 0x00221826#32 0x000000000000F0F0#64 0x0000000000000FF0#64 = some 0x000000000000FF00#64
    ∧ x3 0x00221827#32 0x000000000000F0F0#64 0x0000000000000FF0#64 = some 0xFFFFFFFFFFFF000F#64 := by
  decide
theorem test_slt :
    x3 0x0022182A#32 0x0000000080000000#64 0x0000000000000000#64 = some 0x0000000000000000#64
    ∧ x3 0x0022182A#32 0xFFFFFFFF80000000#64 0x0000000000000000#64 = some 0x0000000000000001#64 := by
  decide
theorem test_sltu :
    x3 0x0022182B#32 0x0000000080000000#64 0xFFFFFFFF80000000#64 = some 0x0000000000000001#64
    ∧ x3 0x0022182B#32 0xFFFFFFFFFFFFFFFF#64 0x0000000000000000#64 = some 0x0000000000000000#64 := by
  decide
theorem test_sll :
    x3 0x00021C00#32 0x0000000000000000#64 0xABCDEF0112345678#64 = some 0x0000000056780000#64
    ∧ x3 0x00021FC0#32 0x0000000000000000#64 0x0000000000000001#64 = some 0xFFFFFFFF80000000#64 := by
  decide
theorem test_srl :
    x3 0x00021842#32 0x0000000000000000#64 0x1234567880000000#64 = some 0x0000000040000000#64
    ∧ x3 0x00021802#32 0x0000000000000000#64 0xFFFFFFFF80000000#64 = some 0xFFFFFFFF80000000#64 := by
  decide
theorem test_sra :
    x3 0x00021903#32 0x0000000000000000#64 0x0000000080000000#64 = some 0xFFFFFFFFF8000000#64 := by
  decide
theorem test_sllv :
    x3 0x00221804#32 0x0000000000000021#64 0x0000000000000001#64 = some 0x0000000000000002#64 := by
  decide
theorem test_srlv :
    x3 0x00221806#32 0x0000000000000008#64 0xFFFFFFFFFF000000#64 = some 0x0000000000FF0000#64 := by
  decide
theorem test_srav :
    x3 0x00221807#32 0x000000000000003F#64 0xFFFFFFFF80000000#64 = some 0xFFFFFFFFFFFFFFFF#64 := by
  decide
theorem test_addi :
    x2 0x20227FFF#32 0x000000007FFF8000#64 = some 0x000000007FFFFFFF#64
    ∧ x2 0x20227FFF#32 0x000000007FFF8001#64 = some 0x0000000000000055#64 := by
  decide
theorem test_addiu :
    x2 0x24220001#32 0x000000007FFFFFFF#64 = some 0xFFFFFFFF80000000#64 := by
  decide
theorem test_slti :
    x2 0x28228000#32 0xFFFFFFFF80000000#64 = some 0x0000000000000001#64 := by
  decide
theorem test_sltiu :
    x2 0x2C22FFFF#32 0x0000000000000005#64 = some 0x0000000000000001#64
    ∧ x2 0x2C228000#32 0x0000000000008000#64 = some 0x0000000000000001#64 := by
  decide
theorem test_andi_ori_xori :
    x2 0x3022FFFF#32 0xFFFFFFFFFFFFFFFF#64 = some 0x000000000000FFFF#64
    ∧ x2 0x34228000#32 0xFFFFFFFF00000000#64 = some 0xFFFFFFFF00008000#64
    ∧ x2 0x3822FFFF#32 0xFFFFFFFFFFFFFFFF#64 = some 0xFFFFFFFFFFFF0000#64 := by
  decide
theorem test_lui :
    x2 0x3C028000#32 0x0000000000000000#64 = some 0xFFFFFFFF80000000#64 := by
  decide
theorem test_register_zero : after (cpuAt 0x20000005#32 []) (·.getX 0#5) = some 0#64 := by decide
theorem test_mult :
    hiLo 0x00220018#32 0xFFFFFFFF80000000#64 0x000000007FFFFFFF#64 = some (0xFFFFFFFFC0000000#64, 0xFFFFFFFF80000000#64) := by
  decide
theorem test_multu :
    hiLo 0x00220019#32 0xFFFFFFFFFFFFFFFF#64 0xFFFFFFFFFFFFFFFF#64 = some (0xFFFFFFFFFFFFFFFE#64, 0x0000000000000001#64) := by
  decide
theorem test_div :
    hiLo 0x0022001A#32 0xFFFFFFFFFFFFFFF9#64 0x0000000000000002#64 = some (0xFFFFFFFFFFFFFFFF#64, 0xFFFFFFFFFFFFFFFD#64)
    ∧ hiLo 0x0022001A#32 0xFFFFFFFF80000000#64 0xFFFFFFFFFFFFFFFF#64 = some (0x0000000000000000#64, 0xFFFFFFFF80000000#64)
    ∧ hiLo 0x0022001A#32 0xFFFFFFFFFFFFFFFB#64 0x0000000000000000#64 = some (0xFFFFFFFFFFFFFFFB#64, 0x0000000000000001#64) := by
  decide
theorem test_divu :
    hiLo 0x0022001B#32 0xFFFFFFFFFFFFFFFF#64 0x0000000000000002#64 = some (0x0000000000000001#64, 0x000000007FFFFFFF#64)
    ∧ hiLo 0x0022001B#32 0xFFFFFFFF80000000#64 0x0000000000000000#64 = some (0xFFFFFFFF80000000#64, 0xFFFFFFFFFFFFFFFF#64) := by
  decide
theorem test_mthi_mtlo :
    hiLo 0x00200011#32 0x123456789ABCDEF0#64 0x0000000000000000#64 = some (0x123456789ABCDEF0#64, 0x0000000000000000#64)
    ∧ hiLo 0x00200013#32 0x0FEDCBA987654321#64 0x0000000000000000#64 = some (0x0000000000000000#64, 0x0FEDCBA987654321#64) := by
  decide
theorem test_mfhi_mflo :
    after ((cpuAt 0x00001810#32 []).setHi 0x123456789ABCDEF0#64) (·.getX 3#5) = some 0x123456789ABCDEF0#64
    ∧ after ((cpuAt 0x00001812#32 []).setLo 0x0FEDCBA987654321#64) (·.getX 3#5) = some 0x0FEDCBA987654321#64 := by
  decide

/-- RDRAM bytes 80 FF 7F 01 FE DC BA 98 at 0x2000, the base there (T7). -/
def loadAt (w : Word) : Option DWord :=
  let s := cpuAt w [(1#5, 0xFFFFFFFF80002000#64)]
  let m := writeBytes s.rdram 0x400000 (fun i => 0x2000 + i) 4 0x80FF7F01#32
  after { s with rdram := writeBytes m 0x400000 (fun i => 0x2004 + i) 4 0xFEDCBA98#32 } (·.getX 2#5)

theorem test_loads_byte_half :
    loadAt 0x80220000#32 = some 0xFFFFFFFFFFFFFF80#64
    ∧ loadAt 0x90220001#32 = some 0x00000000000000FF#64
    ∧ loadAt 0x84220001#32 = some 0xFFFFFFFFFFFFFF7F#64
    ∧ loadAt 0x94220001#32 = some 0x000000000000FF7F#64 := by
  decide
theorem test_loads_word :
    loadAt 0x8C220001#32 = some 0xFFFFFFFFFF7F01FE#64
    ∧ loadAt 0x9C220002#32 = some 0x000000007F01FEDC#64
    ∧ loadAt 0x8C22FFFC#32 = some 0x0000000000000000#64
    ∧ loadAt 0xC0220000#32 = some 0xFFFFFFFF80FF7F01#64 := by
  decide
/-- The bytes at RDRAM 0x2000 to 0x2004 after a store of `x[2] = 0x1122334455667788` (T8). -/
def storedAt (w : Word) : Option (List Byte) :=
  after (cpuAt w [(1#5, 0xFFFFFFFF80002000#64), (2#5, 0x1122334455667788#64)])
    fun t => (List.range 5).map fun i => t.rdramReadByte (0x2000 + i)

theorem test_sb : storedAt 0xA0220003#32 = some [0#8, 0#8, 0#8, 0x88#8, 0#8] := by decide
theorem test_sh : storedAt 0xA4220001#32 = some [0#8, 0x77#8, 0x88#8, 0#8, 0#8] := by decide
theorem test_sw : storedAt 0xAC220001#32 = some [0#8, 0x55#8, 0x66#8, 0x77#8, 0x88#8] := by decide
/-- LL then SC of T11: the flag decides, SC clears it and answers 1 or 0. -/
theorem test_sc :
    after ((cpuAt 0xE0220000#32 [(1#5, 0xFFFFFFFF80002000#64), (2#5, 0xBB#64)]).setLl true)
      (fun t => (t.getX 2#5, t.rdramReadByte 0x2003, t.cpu.llFlag)) = some (1#64, 0xBB#8, false)
    ∧ after (cpuAt 0xE0220000#32 [(1#5, 0xFFFFFFFF80002000#64), (2#5, 0xBB#64)])
      (fun t => (t.getX 2#5, t.rdramReadByte 0x2003, t.cpu.llFlag)) = some (0#64, 0#8, false) := by
  decide
theorem test_ll_sets_the_flag : after (cpuAt 0xC0220000#32 [(1#5, 0xFFFFFFFF80002000#64)]) (·.cpu.llFlag) = some true := by
  decide
/-- T9: the top of RDRAM, and the register windows. -/
theorem test_bus_corners :
    ((State.reset.rdramWriteByte 0x3FFFFE 0xAB#8).rdramWriteByte 0x3FFFFF 0xCD#8).memRead 0x803FFFFE#32 .word = 0xABCD0000#32
    ∧ (State.reset.memWrite 0xA4000FFE#32 .word 0xAABBCCDD#32).memRead 0xA4000FFE#32 .word = 0xAABB0000#32
    ∧ (State.reset.memWrite 0xA4001000#32 .word 0x01020304#32).memRead 0x04001002#32 .half = 0x0304#32
    ∧ (State.reset.memWrite 0xA4040000#32 .word 0xFFFFFFFF#32).memRead 0xA4040000#32 .word = 0xFFF#32
    ∧ (State.reset.memWrite 0xA4080000#32 .word 0xFFFFFFFF#32).memRead 0xA4080000#32 .word = 0xFFC#32
    ∧ (State.reset.memWrite 0xA4100000#32 .word 0xFFFFFFFF#32).memRead 0xA4100004#32 .word = 0xFFFFFC#32
    ∧ State.reset.memRead 0xA4040010#32 .word = 1#32 ∧ State.reset.memRead 0xA4040000#32 .half = 0#32
    ∧ State.reset.memWrite 0xA4040001#32 .word 1#32 = State.reset := by
  decide

/-! ### CPU control -/

theorem test_beq :
    flow 0x10220003#32 0x0000000000000005#64 = some (0x80001004#32, true, 0x80001010#32)
    ∧ flow 0x10220003#32 0xFFFFFFFFFFFFFFFF#64 = some (0x80001004#32, false, 0#32) := by
  decide
theorem test_bne :
    flow 0x14220003#32 0x0000000000000005#64 = some (0x80001004#32, false, 0#32)
    ∧ flow 0x14220003#32 0x0000000080000000#64 = some (0x80001004#32, true, 0x80001010#32) := by
  decide
theorem test_blez :
    flow 0x18200003#32 0x0000000000000000#64 = some (0x80001004#32, true, 0x80001010#32)
    ∧ flow 0x18200003#32 0x0000000080000000#64 = some (0x80001004#32, false, 0#32) := by
  decide
theorem test_bgtz :
    flow 0x1C200003#32 0x0000000000000000#64 = some (0x80001004#32, false, 0#32)
    ∧ flow 0x1C200003#32 0x0000000080000000#64 = some (0x80001004#32, true, 0x80001010#32) := by
  decide
theorem test_bltz :
    flow 0x04200003#32 0xFFFFFFFFFFFFFFFF#64 = some (0x80001004#32, true, 0x80001010#32)
    ∧ flow 0x04200003#32 0x0000000000000000#64 = some (0x80001004#32, false, 0#32) := by
  decide
theorem test_bgez :
    flow 0x04210003#32 0x0000000000000000#64 = some (0x80001004#32, true, 0x80001010#32)
    ∧ flow 0x04210003#32 0xFFFFFFFFFFFFFFFF#64 = some (0x80001004#32, false, 0#32) := by
  decide
theorem test_bltzal_links_when_not_taken : after (cpuAt 0x04300003#32 []) (fun t => (t.getX 31#5, t.cpu.delayFlag))
    = some (0xFFFFFFFF80001008#64, false) := by decide
/-- T15: the old value of the register is tested. -/
theorem test_bgezal_tests_the_old_link : after (cpuAt 0x07F10003#32 [(31#5, 0xFFFFFFFFFFFFFFFF#64)])
    (fun t => (t.getX 31#5, t.cpu.delayFlag)) = some (0xFFFFFFFF80001008#64, false) := by decide
theorem test_j_region : jumpTarget 0x8FFFFFFC#32 0x400#26 = 0x90001000#32 := by decide
theorem test_jal : after (cpuAt 0x0C000400#32 []) (fun t => (t.getX 31#5, t.cpu.pendingTarget))
    = some (0xFFFFFFFF80001008#64, 0x80001000#32) := by decide
theorem test_jr_clears_low_bits : after (cpuAt 0x00400008#32 [(2#5, 0x1234567880002003#64)]) (·.cpu.pendingTarget)
    = some 0x80002000#32 := by decide
theorem test_jalr_reads_before_linking : after (cpuAt 0x00401009#32 [(2#5, 0x80002000#64)])
    (fun t => (t.getX 2#5, t.cpu.pendingTarget)) = some (0xFFFFFFFF80001008#64, 0x80002000#32) := by decide

/-- The vectors' state in the delay slot of a branch to 0x80001020. -/
def inSlot (w : Word) : State :=
  let s := cpuAt w []
  { s with cpu := { s.cpu with delayFlag := true, pendingTarget := 0x80001020#32 } }

/-- T13: a taken branch in a slot takes over, a not-taken one does not (42 R272). -/
theorem test_branch_in_slot :
    after (inSlot 0x1000000F#32) (fun t => (t.cpu.pc, t.cpu.delayFlag)) = some (0x80001040#32, false)
    ∧ after (inSlot 0x1400000F#32) (fun t => (t.cpu.pc, t.cpu.delayFlag)) = some (0x80001020#32, false) := by
  decide

/-! ### COP0 and exceptions -/

/-- The vectors' state with a COP0 slot preset. -/
def withC0 (s : State) (r : Reg) (v : Word) : State := s.setC0 r v

/-- The vectors' state with the interrupt lines given. -/
def withIrq (s : State) (v : BitVec 4) : State := { s with cpu := { s.cpu with irq := v } }

/-- T16. -/
theorem test_mtc0 :
    after (cpuAt 0x40886000#32 [(8#5, 0xFFFFFFFF12345678#64)]) (·.getC0 12#5) = some 0x12345678#32
    ∧ after (cpuAt 0x40887800#32 [(8#5, 0xFFFFFFFFFFFFFFFF#64)]) (·.getC0 15#5) = some 0x00000B22#32
    ∧ after (cpuAt 0x40888000#32 [(8#5, 0xFFFFFFFFFFFFFFFF#64)]) (·.getC0 16#5) = some 0x7006E463#32 := by
  decide
theorem test_mfc0 :
    after (withC0 (cpuAt 0x40096800#32 []) 13#5 0xFFFFFFFF#32) (·.getX 9#5) = some 0xFFFFFFFFFFFFFBFF#64
    ∧ after (withIrq (cpuAt 0x40096800#32 []) 0b0100#4) (·.getX 9#5) = some 0x400#64
    ∧ after (withC0 (cpuAt 0x40096000#32 []) 12#5 0x80000000#32) (·.getX 9#5) = some 0xFFFFFFFF80000000#64 := by
  decide
/-- T17. -/
theorem test_eret :
    trap (withC0 (withC0 (cpuAt 0x42000018#32 []) 14#5 0x80002003#32) 12#5 3#32)
      = some (0x80002000#32, 1#32, 0#32, 0x80002003#32)
    ∧ trap (withIrq (withC0 (withC0 (cpuAt 0x42000018#32 []) 14#5 0x80002000#32) 12#5 3#32) 1#4)
      = some (0x80000180#32, 3#32, 0#32, 0x80002000#32) := by
  decide
/-- T18, T19. -/
theorem test_syscall :
    trap (cpuAt 0x0000000C#32 []) = some (0x80000180#32, 2#32, 0x20#32, 0x80001000#32)
    ∧ trap (withC0 (cpuAt 0x0000000C#32 []) 12#5 0x00400000#32) = some (0xBFC00380#32, 0x00400002#32, 0x20#32, 0x80001000#32) := by
  decide
/-- T18, T19; row T19's Cause 0x3000FFA3 for this BREAK is no value of rule R460, whose bits 6:2 hold code 9 (log 27). -/
theorem test_brk :
    trap (withC0 (cpuAt 0x0000000D#32 []) 13#5 0x3000FF83#32) = some (0x80000180#32, 2#32, 0x3000FFA7#32, 0x80001000#32)
    ∧ trap (inSlot 0x0000000D#32) = some (0x80000180#32, 2#32, 0x80000024#32, 0x80000FFC#32) := by
  decide
theorem test_reserved_instruction : trap (cpuAt 0xFFFFFFFF#32 []) = some (0x80000180#32, 2#32, 0x28#32, 0x80001000#32) := by
  decide
theorem test_overflow : trap (cpuAt 0x01095020#32 [(8#5, 0x7FFFFFFF#64), (9#5, 1#64)])
    = some (0x80000180#32, 2#32, 0x30#32, 0x80001000#32) := by decide
/-- T20: an ADDIU step with a line pending, with IE = 1, with IE = 0, with EL = 1; a SYSCALL step. -/
theorem test_interrupt :
    trap (withIrq (withC0 (cpuAt 0x25080001#32 []) 12#5 1#32) 1#4) = some (0x80000180#32, 3#32, 0#32, 0x80001004#32)
    ∧ trap (withIrq (cpuAt 0x25080001#32 []) 1#4) = some (0x80001004#32, 0#32, 0#32, 0#32)
    ∧ trap (withIrq (withC0 (cpuAt 0x25080001#32 []) 12#5 3#32) 1#4) = some (0x80001004#32, 3#32, 0#32, 0#32)
    ∧ trap (withIrq (withC0 (cpuAt 0x0000000C#32 []) 12#5 1#32) 1#4) = some (0x80000180#32, 3#32, 0x20#32, 0x80001000#32) := by
  decide
/-- T20: a taken branch interrupted before its slot. -/
theorem test_interrupt_before_slot : trap (withIrq (withC0 (cpuAt 0x10000003#32 []) 12#5 1#32) 1#4)
    = some (0x80000180#32, 3#32, 0x80000000#32, 0x80001000#32) := by decide
/-- T9: a fetch from an unmapped address executes a no-op, as from reset (log 15). -/
theorem test_unmapped_fetch : after State.reset (fun t => (t.cpu.pc, t.cause)) = some (0xBFC00004#32, 0#32) := by decide

/-! ### One RSP step at 0x100 (T21 to T26) -/

/-- An RSP with a word at 0x100 and registers preset; the next call is RSP `step()`. -/
def rspAt (w : Word) (regs : List (Reg × Word)) : State :=
  let s := { State.reset with
    rsp := { Rsp.reset with pc := 0x100#12, imem := writeBytes [] Config.localSize (fun i => 0x100 + i) 4 w }
    calls := [.rspStep] }
  regs.foldl (fun t p => t.setR p.1 p.2) s

/-- `r[3]` after `op r[1], r[2]`. -/
def r3 (w : Word) (a b : Word) : Option Word := after (rspAt w [(1#5, a), (2#5, b), (3#5, 0x55#32)]) (·.getR 3#5)

/-- `r[2]` after `op r[1], imm`. -/
def r2 (w : Word) (a : Word) : Option Word := after (rspAt w [(1#5, a), (2#5, 0x55#32)]) (·.getR 2#5)

theorem test_rsp_add_sub :
    r3 0x00221820#32 0x7FFFFFFF#32 0x00000001#32 = some 0x80000000#32
    ∧ r3 0x00221821#32 0xFFFFFFFF#32 0x00000001#32 = some 0x00000000#32
    ∧ r3 0x00221822#32 0x80000000#32 0x00000001#32 = some 0x7FFFFFFF#32
    ∧ r3 0x00221823#32 0x00000000#32 0x00000001#32 = some 0xFFFFFFFF#32 := by
  decide
theorem test_rsp_logical :
    r3 0x00221824#32 0x0000F0F0#32 0x00000FF0#32 = some 0x000000F0#32
    ∧ r3 0x00221825#32 0x0000F0F0#32 0x00000FF0#32 = some 0x0000FFF0#32
    ∧ r3 0x00221826#32 0x0000F0F0#32 0x00000FF0#32 = some 0x0000FF00#32
    ∧ r3 0x00221827#32 0x0000F0F0#32 0x00000FF0#32 = some 0xFFFF000F#32 := by
  decide
theorem test_rsp_compare :
    r3 0x0022182A#32 0x80000000#32 0x7FFFFFFF#32 = some 0x00000001#32
    ∧ r3 0x0022182B#32 0x80000000#32 0x7FFFFFFF#32 = some 0x00000000#32 := by
  decide
theorem test_rsp_shift :
    r3 0x00021900#32 0x00000000#32 0x08000001#32 = some 0x80000010#32
    ∧ r3 0x00021902#32 0x00000000#32 0x80000000#32 = some 0x08000000#32
    ∧ r3 0x00021903#32 0x00000000#32 0x80000000#32 = some 0xF8000000#32 := by
  decide
theorem test_rsp_shift_variable :
    r3 0x00221804#32 0x00000021#32 0x00000001#32 = some 0x00000002#32
    ∧ r3 0x00221806#32 0x00000008#32 0xFF000000#32 = some 0x00FF0000#32
    ∧ r3 0x00221807#32 0x00000028#32 0xFF000000#32 = some 0xFFFF0000#32 := by
  decide
theorem test_rsp_immediate :
    r2 0x20220001#32 0x7FFFFFFF#32 = some 0x80000000#32
    ∧ r2 0x2422FFFF#32 0x00000000#32 = some 0xFFFFFFFF#32
    ∧ r2 0x2822FFFF#32 0xFFFFFFFE#32 = some 0x00000001#32
    ∧ r2 0x2C22FFFF#32 0x00000005#32 = some 0x00000001#32 := by
  decide
theorem test_rsp_immediate_logical :
    r2 0x302200FF#32 0xFFFF1234#32 = some 0x00000034#32
    ∧ r2 0x342200FF#32 0x00001200#32 = some 0x000012FF#32
    ∧ r2 0x382200FF#32 0x00000F0F#32 = some 0x00000FF0#32
    ∧ r2 0x3C028000#32 0x00000000#32 = some 0x80000000#32 := by
  decide

/-- DMEM of T22: 80 FF 7F 01 at 0x010, AA BB CC DD from 0xFFE on, wrapping. -/
def rspLoadAt (w : Word) (a : Word) : Option Word :=
  after (((rspAt w [(1#5, a)]).dmemWrite 0x010 .word 0x80FF7F01#32).dmemWrite 0xFFE .word 0xAABBCCDD#32) (·.getR 2#5)

theorem test_rsp_loads :
    rspLoadAt 0x80220000#32 0x00000010#32 = some 0xFFFFFF80#32
    ∧ rspLoadAt 0x90220000#32 0x00000010#32 = some 0x00000080#32
    ∧ rspLoadAt 0x84220000#32 0x00000FFF#32 = some 0xFFFFBBCC#32
    ∧ rspLoadAt 0x94220000#32 0x00000010#32 = some 0x000080FF#32
    ∧ rspLoadAt 0x8C22FFFE#32 0x00000000#32 = some 0xAABBCCDD#32
    ∧ rspLoadAt 0x8C220000#32 0xFFFFF010#32 = some 0x80FF7F01#32 := by
  decide
theorem test_rsp_stores :
    after (rspAt 0xA0220003#32 [(1#5, 0x20#32), (2#5, 0x11223344#32)]) (·.dmemRead 0x20 .word) = some 0x44#32
    ∧ after (rspAt 0xA4220002#32 [(1#5, 0x20#32), (2#5, 0x11223344#32)]) (·.dmemRead 0x20 .word) = some 0x3344#32
    ∧ after (rspAt 0xAC220000#32 [(1#5, 0xFFE#32), (2#5, 0x11223344#32)])
      (fun t => (t.dmemRead 0 .half, t.dmemRead 0xFFE .half)) = some (0x3344#32, 0x1122#32) := by
  decide

/-- The RSP's delay flag and link, with `r[2] = 5`. -/
def rspFlow (w : Word) (a : Word) : Option (Bool × Word) :=
  after (rspAt w [(1#5, a), (2#5, 5#32)]) fun t => (t.rsp.delayFlag, t.getR 31#5)

theorem test_rsp_branch_target : after (rspAt 0x18200003#32 []) (·.rsp.pendingTarget) = some 0x110#12 := by decide

theorem test_rsp_branches :
    rspFlow 0x10220003#32 0x00000005#32 = some (true, 0#32)
    ∧ rspFlow 0x10220003#32 0x00000000#32 = some (false, 0#32)
    ∧ rspFlow 0x14220003#32 0x00000000#32 = some (true, 0#32)
    ∧ rspFlow 0x18200003#32 0x00000000#32 = some (true, 0#32)
    ∧ rspFlow 0x18200003#32 0x00000005#32 = some (false, 0#32) := by
  decide
theorem test_rsp_branches_signed :
    rspFlow 0x1C200003#32 0x00000005#32 = some (true, 0#32)
    ∧ rspFlow 0x1C200003#32 0x00000000#32 = some (false, 0#32)
    ∧ rspFlow 0x04200003#32 0xFFFFFFFF#32 = some (true, 0#32)
    ∧ rspFlow 0x04200003#32 0x00000000#32 = some (false, 0#32)
    ∧ rspFlow 0x04210003#32 0x00000000#32 = some (true, 0#32)
    ∧ rspFlow 0x04210003#32 0xFFFFFFFF#32 = some (false, 0#32) := by
  decide
theorem test_rsp_branches_linking :
    rspFlow 0x04300003#32 0xFFFFFFFF#32 = some (true, 0x108#32)
    ∧ rspFlow 0x04300003#32 0x00000000#32 = some (false, 0x108#32)
    ∧ rspFlow 0x04310003#32 0x00000000#32 = some (true, 0x108#32)
    ∧ rspFlow 0x04310003#32 0xFFFFFFFF#32 = some (false, 0x108#32) := by
  decide
theorem test_rsp_jumps :
    after (rspAt 0x080007FF#32 []) (·.rsp.pendingTarget) = some 0xFFC#12
    ∧ after (rspAt 0x0C000010#32 []) (fun t => (t.rsp.pendingTarget, t.getR 31#5)) = some (0x040#12, 0x108#32)
    ∧ after (rspAt 0x00400008#32 [(2#5, 0xFFFFF123#32)]) (·.rsp.pendingTarget) = some 0x120#12
    ∧ after (rspAt 0x00401009#32 [(2#5, 0x200#32)]) (fun t => (t.rsp.pendingTarget, t.getR 2#5)) = some (0x200#12, 0x108#32) := by
  decide
/-- T23: the link of a jump at 0xFF8 wraps to 0. -/
theorem test_rsp_link_wraps : rspLinkValue 0xFF8#12 = 0#32 := by decide
theorem test_rsp_break : after (rspAt 0x0000000D#32 []) (fun t => (t.rsp.run, t.rsp.pc)) = some (.broke, 0x104#12) := by decide
theorem test_rsp_unknown_is_no_op : after (rspAt 0xFFFFFFFF#32 [])
    (fun t => decide ({ t with rsp := { t.rsp with pc := 0x100#12 }, calls := [.rspStep], reply := .none }
      = rspAt 0xFFFFFFFF#32 [])) = some true := by decide

/-- T24: `v[1]`, `v[2]` and the lanes of `v[3]` after. -/
def lanes (w : Word) : Option (List Lane) :=
  after (((rspAt w []).setV 1#5
      #v[0x0001#16, 0xFFFF#16, 0x7FFF#16, 0x8000#16, 0x4000#16, 0x0100#16, 0x1234#16, 0x0000#16]).setV 2#5
      #v[0x0001#16, 0x0001#16, 0x0001#16, 0x8000#16, 0x4000#16, 0x0100#16, 0x0010#16, 0xFFFF#16])
    fun t => (t.getV 3#5).toList

theorem test_vadd : lanes 0x4A0208D0#32 = some
    [0x0002#16, 0x0000#16, 0x8000#16, 0x0000#16, 0x8000#16, 0x0200#16, 0x1244#16, 0xFFFF#16] := by decide
theorem test_vadd_broadcast : lanes 0x4B6208D0#32 = some
    [0x8001#16, 0x7FFF#16, 0xFFFF#16, 0x0000#16, 0xC000#16, 0x8100#16, 0x9234#16, 0x8000#16] := by decide
theorem test_vsub : lanes 0x4A0208D1#32 = some
    [0x0000#16, 0xFFFE#16, 0x7FFE#16, 0x0000#16, 0x0000#16, 0x0000#16, 0x1224#16, 0x0001#16] := by decide
theorem test_vmulf : lanes 0x4A0208C0#32 = some
    [0x0000#16, 0xFFFF#16, 0x0000#16, 0x4000#16, 0x1000#16, 0x0001#16, 0x0001#16, 0x0000#16] := by decide
theorem test_vmudl : lanes 0x4A0208C4#32 = some
    [0x0000#16, 0x0000#16, 0x0000#16, 0x4000#16, 0x1000#16, 0x0001#16, 0x0001#16, 0x0000#16] := by decide
theorem test_vmudn : lanes 0x4A0208C6#32 = some
    [0x0001#16, 0xFFFF#16, 0x7FFF#16, 0x0000#16, 0x0000#16, 0x0000#16, 0x2340#16, 0x0000#16] := by decide
theorem test_vmudh : lanes 0x4A0208C7#32 = some
    [0x0001#16, 0xFFFF#16, 0x7FFF#16, 0x0000#16, 0x0000#16, 0x0000#16, 0x2340#16, 0x0000#16] := by decide
theorem test_vsar : lanes 0x4A0208DD#32 = some
    [0x0000#16, 0x0000#16, 0x0000#16, 0x0000#16, 0x0000#16, 0x0000#16, 0x0000#16, 0x0000#16] := by decide
/-- T25: LQV from 0xFF8 wraps; the offset field is signed and counts 16 bytes; SQV stores big-endian lanes. -/
theorem test_lqv :
    after (((rspAt 0xC8412000#32 [(2#5, 0xFF8#32)]).dmemWrite 0xFFE .word 0xA6A7A8A9#32)) (fun t => (t.getV 1#5)[3]) = some 0xA6A7#16
    ∧ State.quadEa (rspAt 0#32 [(2#5, 0x100#32)]) 2#5 0x7F#7 = 0x0F0
    ∧ State.quadEa (rspAt 0#32 [(2#5, 0x100#32)]) 2#5 0x40#7 = 0xD00 := by
  decide
theorem test_sqv :
    after ((rspAt 0xE8432000#32 [(2#5, 0xFFA#32)]).setV 3#5
        #v[0x1122#16, 0x3344#16, 0x5566#16, 0x7788#16, 0x99AA#16, 0xBBCC#16, 0xDDEE#16, 0xFF00#16])
      (fun t => (t.dmemRead 0xFFA .word, t.dmemRead 0 .word, t.dmemRead 6 .word))
      = some (0x11223344#32, 0x778899AA#32, 0xDDEEFF00#32) := by
  decide
/-- T26: DMEM wraps, bytes beyond RDRAM read 0 and are discarded. -/
theorem test_dma :
    (let s := { State.reset with rdram := Store.ofBytes 0x1000 [0x10#8, 0x11#8, 0x12#8, 0x13#8, 0x14#8, 0x15#8, 0x16#8, 0x17#8] }
     (s.dmaToDmem 0x1000 0xFFC 8).dmemRead 0 .word = 0x14151617#32)
    ∧ (State.reset.rdramWriteByte 0x3FFFFF 0x77#8).dmaToDmem 0x3FFFFF 0 3 =
      { State.reset.rdramWriteByte 0x3FFFFF 0x77#8 with rsp := { Rsp.reset with dmem := [(0, 0x77#8)] } } := by
  decide

/-! ### The RDP (T27 to T30, S4) -/

/-- What `f` reads after `processCommands()` on these words. -/
def drained (ws : List Word) (f : State → α) : Option α :=
  after { State.reset with rdp := { Rdp.reset with queue := ws }, calls := [.processCommands] } f

/-- S4. -/
theorem test_fill_rectangle : drained [0xFC18003F#32, 0x00100000#32, 0xDC000000#32, 0x112233FF#32, 0xD8004004#32, 0#32]
    (fun t => (t.pixel 0 0, t.pixel 1 0, t.rdp.render.colorImage.width)) = some (0x112233FF#32, 0#32, 64) := by decide
/-- T27: 5/5/5/1 to RGBA8888. -/
theorem test_fill_color_16 :
    fillRgba { RenderState.reset with colorImage := ⟨0#3, 2#2, 64, 0#26⟩, fillColor := 0x0000F801#32 } = 0xFF0000FF#32
    ∧ fillRgba { RenderState.reset with colorImage := ⟨0#3, 2#2, 64, 0#26⟩, fillColor := 0x00008421#32 } = 0x848484FF#32
    ∧ fillRgba { RenderState.reset with fillColor := 0xA1B2C3D4#32 } = 0xA1B2C3D4#32 := by
  decide
/-- T28: clipping, inversion, and the dropped fractions. -/
theorem test_rectangle_geometry :
    pixelRect .default 0x640#12 0x4B0#12 0x4D8#12 0x398#12 = ⟨310, 230, 320, 240⟩ ∧ pixelRect .default 43#12 43#12 5#12 6#12 = ⟨1, 1, 10, 10⟩
    ∧ paintRect 320 [] (pixelRect .default 20#12 80#12 40#12 40#12) (fun _ _ => 1#32) = [] := by
  decide
/-- T29: an unknown command is skipped by its length; a cut-off one is dropped. -/
theorem test_drain_skips :
    drained [0x20000000#32, 0xDC000000#32, 0xDC000001#32, 0xDC000002#32, 0xDC000003#32, 0xDC000004#32, 0xDC000005#32, 0xDC000006#32,
      0xDC000000#32, 0xCAFEF00D#32] (fun t => (t.rdp.render.fillColor, t.rdp.queue)) = some (0xCAFEF00D#32, [])
    ∧ drained [0x20000000#32, 1#32, 2#32, 3#32, 0xDC000000#32, 0x11111111#32] (fun t => (t.rdp.render.fillColor, t.rdp.queue))
      = some (0#32, []) := by
  decide
/-- T30. -/
theorem test_set_commands :
    drained [0xE0000000#32, 0x11#32, 0xE4000000#32, 0x22#32, 0xEC000000#32, 0x33#32, 0xF0ABCDEF#32, 0x44#32, 0xB4000000#32,
      0x005003C0#32, 0xBC123456#32, 0x55#32, 0xF410001F#32, 0x00080000#32] (·.rdp.render)
    = some { RenderState.reset with
        fogColor := 0x11#32, blendColor := 0x22#32, envColor := 0x33#32, combine0 := 0xABCDEF#24, combine1 := 0x44#32,
        scissor := ⟨0#12, 0#12, 1280#12, 960#12⟩, renderMode := 0x55#32, texImage := ⟨0#3, 2#2, 32, 0x080000#26⟩ } := by
  decide
/-- T30: the write-back of a frame whose address is near the top of RDRAM. -/
theorem test_sync_full : drained [0xFC18003F#32, 0x003FFFFC#32, 0xDC000000#32, 0xA1B2C3D4#32, 0xD8008004#32, 0#32, 0xA4000000#32, 0#32]
    (·.rdram) = some [(0x3FFFFC, 0xA1#8), (0x3FFFFD, 0xB2#8), (0x3FFFFE, 0xC3#8), (0x3FFFFF, 0xD4#8)] := by decide
/-- T30: DPC_END enqueues the words from DPC_START up to it. -/
theorem test_dpc_end :
    ((({ State.reset with rdram := Store.ofBytes 0x4000 [0x11#8, 0x22#8, 0x33#8, 0x44#8] }).memWrite 0xA4100000#32 .word
      0x4000#32).memWrite 0xA4100004#32 .word 0x400B#32).rdp.queue = [0x11223344#32, 0#32] := by decide

/-! ### The Cartridge (S1, S6, T9, T10, T31) -/

/-- The image of S1 up to 0x40 bytes, its magic, clock, entry and region given. -/
def imageOf (magic : List Byte) (clock : Byte) (entry : List Byte) (title : List Byte) : List Byte :=
  magic ++ [clock, 0#8, 0#8, 0#8] ++ entry ++ [0#8, 0#8, 0#8, 0#8] ++ [0xAA#8, 0xBB#8, 0xCC#8, 0xDD#8, 0x11#8, 0x22#8, 0x33#8, 0x44#8]
    ++ List.replicate 8 0#8 ++ title ++ List.replicate (31 - title.length) 0x20#8 ++ [0x45#8]

/-- "TEST GAME". -/
def testGame : List Byte := [0x54#8, 0x45#8, 0x53#8, 0x54#8, 0x20#8, 0x47#8, 0x41#8, 0x4D#8, 0x45#8]

/-- The magic of the first ordering. -/
def goodMagic : List Byte := [0x80#8, 0x37#8, 0x12#8, 0x40#8]

/-- The image of S1. -/
def s1Image : List Byte := imageOf goodMagic 0x0F#8 [0x80#8, 0#8, 0x10#8, 0#8] testGame

/-- The error or the fields of a construction, with a one-entry title table ("GAME" to SRAM). -/
def built (image : List Byte) : Except CartError (List Byte × GameRegion × SaveType × Word × Word) :=
  (constructCartridge .default [([0x47#8, 0x41#8, 0x4D#8, 0x45#8], .sram)] image).map
    fun c => (c.title, c.region, c.saveType, c.crc1, c.entryPoint)

theorem test_construct : built s1Image = .ok (testGame, .usa, .sram, 0xAABBCCDD#32, 0x80001000#32) := by decide
theorem test_construct_other_orderings :
    built (swapPairs s1Image) = built s1Image ∧ built (reverseQuads s1Image) = built s1Image
    ∧ (swapPairs s1Image).take 4 = [0x37#8, 0x80#8, 0x40#8, 0x12#8] := by
  decide
theorem test_construct_unlisted : saveTypeOf [([0x5A#8, 0x45#8, 0x4C#8, 0x44#8, 0x41#8], .sram)] testGame = .none := by decide

/-- A Cartridge of the ROM vectors of T9. -/
def romCart : Cartridge :=
  { cartridgeOf .default [] s1Image with rom := goodMagic ++ List.replicate 0x38 0#8 ++ [0xDE#8, 0xAD#8, 0xBE#8, 0xEF#8], saveType := .smallEeprom }

/-- The machine with that Cartridge. -/
def withCart : State := { State.reset with cart := some romCart }

/-- T9: reads within the ROM, clamped past it, writes discarded. -/
theorem test_rom_reads :
    withCart.memRead 0xB0000000#32 .word = 0x80371240#32 ∧ withCart.memRead 0xB0000001#32 .half = 0x3712#32
    ∧ withCart.memRead 0xB0000040#32 .word = 0xDEADBEEF#32 ∧ withCart.memRead 0x1FBFFFFC#32 .word = 0xDEADBEEF#32
    ∧ withCart.memWrite 0xB0000000#32 .word 0xFFFFFFFF#32 = withCart := by
  decide
/-- T10. -/
theorem test_save_buffer :
    (withCart.memWrite 0xA80001FE#32 .word 0xAABBCCDD#32).memRead 0xA80001FE#32 .word = 0xAABB0000#32
    ∧ (withCart.memWrite 0xA80001FE#32 .word 0xAABBCCDD#32).memRead 0xA8000200#32 .word = 0#32 := by
  decide
theorem test_save_load_wrong_length :
    romCart.saveLoad 512 (List.replicate 511 1#8) = none ∧ romCart.saveLoad 512 (List.replicate 513 1#8) = none := by
  constructor <;> exact if_neg (by rw [List.length_replicate]; decide)
/-- T9: the bank index and the offset are clamped (three banks). -/
theorem test_bank_offsets (c : Cartridge) (h : c.rom.length = 0x500000) :
    c.effectiveOffset 1 0 1 = 0x200000 ∧ c.effectiveOffset 0 0x200000 1 = 0x200000
    ∧ c.effectiveOffset 2 0x100000 1 = 0x4FFFFF ∧ c.effectiveOffset 100 0 1 = c.effectiveOffset 2 0 1 := by
  simp only [Cartridge.effectiveOffset, h]
  decide

/-! ### The parameters (00_scope R6) and the framebuffer read (45_rdp R430) -/

/-- Other values for the parameters: 8 MiB of RDRAM, one register, a reset pc, a vector, and LO after a division by zero. -/
def otherParams : Params :=
  { Params.default with
    resetPc := 0x80000400#32, vecNormal := 0x80000080#32, rdramSize := 0x800000, regwin := [(0x05000000, .spPc)]
    divCorner := { defaultDivCorner with divZeroLo := .const 7#32 } }

/-- The parameters are what the machine is built with. -/
theorem test_parameters :
    (State.init otherParams).cpu.pc = 0x80000400#32
    ∧ ((State.init otherParams).rdramWriteByte 0x7FFFFF 0xAB#8).memRead 0x807FFFFF#32 .byte = 0xAB#32
    ∧ ((State.init otherParams).memWrite 0xA5000000#32 .word 0x124#32).rsp.pc = 0x124#12
    ∧ ((State.init otherParams).memWrite 0xA4040000#32 .word 0x124#32).rsp.memAddr = 0#12 := by
  decide
theorem test_parameters_cpu :
    (State.init otherParams).params = otherParams
    ∧ ({ (State.init otherParams) with cpu := (cpuAt 0#32 []).cpu } : State).enterException .sys
      = { ({ (State.init otherParams) with cpu := (cpuAt 0#32 []).cpu } : State) with
          cpu := { ((cpuAt 0#32 []).enterException .sys).cpu with pc := 0x80000080#32 } }
    ∧ otherParams.divCorner.divZeroLo.eval 0x80000000#32 = 7#64 := by
  decide
theorem test_read_frame :
    after { State.reset with rdp := { Rdp.reset with fb := [(5, 1#32)] }, calls := [.readFrame] } (·.reply)
    = some (.frame [(5, 1#32)] 320 240 .rgba8888) := by decide

/-! ### Witnesses: states and operands that meet the hypotheses of the statements, clause by clause at the bounds -/

/-- A running machine with a Cartridge, memory, a queue and pixels listed. -/
def busy : State :=
  let s := cpuAt 0x25080001#32 [(8#5, 1#64), (31#5, 0xFFFFFFFF80002000#64)]
  { s with
    rsp := { Rsp.reset with pc := 0xFFC#12, run := .running, dmem := [(0, 1#8), (4095, 2#8)] }
    rdp := { Rdp.reset with queue := [0xA4000000#32, 0#32], fb := [(0, 1#32), (76799, 2#32)] }
    cart := some { romCart with save := [(0, 3#8), (511, 4#8)] } }

/-- InvAtReset: the default parameters, and others that are admissible. -/
theorem witness_InvAtReset :
    Params.default.Ok ∧ ({ Params.default with resetPc := 0x80000000#32, rdramSize := 0x800000, fbWidth := 640 } : Params).Ok :=
  ⟨⟨by decide, by decide, by decide, by decide, by decide⟩, ⟨by decide, by decide, by decide, by decide, by decide⟩⟩

theorem witness_inv : busy.Inv where
  params := witness_InvAtReset.1
  cpu := ⟨by decide, by decide, by decide, by decide, by decide⟩
  rsp := ⟨by decide, by decide, by decide, by decide, by decide⟩
  rdp := ⟨by decide, by decide, by decide, by decide⟩
  rdram := by decide
  cart := by
    intro c hc
    injection hc with hc
    subst hc
    exact ⟨by decide, by decide⟩
/-- StepKeepsInv. -/
theorem witness_StepKeepsInv : busy.Inv ∧ ∃ t, step busy = .next t := ⟨witness_inv, _, rfl⟩
/-- SyncFullWritesFrame, at address 0. -/
theorem witness_SyncFullWritesFrame :
    busy.Inv ∧ busy.rdp.render.colorImage.addr.toNat = 0 ∧ busy.params.fbWidth = 320 ∧ busy.params.fbHeight = 240
    ∧ fieldOpcode 0xA7FFFFFF#32 = 0x29#6 := ⟨witness_inv, rfl, rfl, rfl, by decide⟩
/-- ResetGivesDefaults: a slot that is none of the three. -/
theorem witness_ResetGivesDefaults : 13#5 ≠ 12#5 ∧ 13#5 ≠ 15#5 ∧ 13#5 ≠ 16#5 := by decide
/-- StepRunsDecodedInstruction, the schedule: a call that is none of the three that run instructions. -/
theorem witness_StepRunsDecodedInstruction_schedule : (State.reset.callNext .kick).calls = .kick :: [] := rfl
/-- StepRunsDecodedInstruction, its clauses on decoded instructions. -/
theorem witness_StepRunsDecodedInstruction :
    (busy.calls = [] ∧ decodeCpuWord busy.fetch = .ok (.addiu 8#5 8#5 1#16))
    ∧ (({ busy with calls := [.cpuStep] } : State).calls = .cpuStep :: [] ∧ decodeCpuWord busy.fetch = .ok (.addiu 8#5 8#5 1#16))
    ∧ ((rspAt 0x0000000D#32 []).calls = .rspStep :: []
      ∧ decodeRspWord ((rspAt 0x0000000D#32 []).imemRead (rspAt 0x0000000D#32 []).rsp.pc) = .ok (.rspBreak 0#20))
    ∧ (({ busy with calls := [.processCommands] } : State).calls = .processCommands :: []
      ∧ busy.rdp.queue = 0xA4000000#32 :: ([0#32] ++ []) ∧ [0#32].length = busy.params.rdpLen (fieldOpcode 0xA4000000#32)
      ∧ decodeRdpCommand 0xA4000000#32 [0#32] = .ok .syncFull) := by
  decide
/-- RoundTripProcessors. -/
theorem witness_RoundTripProcessors :
    (Instr.add 31#5 0#5 31#5).block = .cpu ∧ (Instr.sqv 31#5 0#5 0x7F#7).block = .rsp := by decide
/-- RoundTripRdp, both bounds of the width. -/
theorem witness_RoundTripRdp :
    (Instr.setColorImage 7#3 3#2 1 0x3FFFFFF#26).block = .rdp ∧ (Instr.setColorImage 7#3 3#2 1 0x3FFFFFF#26).wellFormed = true
    ∧ (Instr.setTextureImage 0#3 0#2 1024 0#26).wellFormed = true := by decide
/-- RecognisesExactlyTheTable: a word in a CPU row and a word in none. -/
theorem witness_RecognisesExactlyTheTable_cpu :
    InRow 0x42000018#32 (0xFFE0003F#32, 0x42000018#32) ∧ (0xFFE0003F#32, 0x42000018#32) ∈ cpuRows
    ∧ (cpuRows.all fun row => decide (0x42200018#32 &&& row.1 ≠ row.2)) = true := by
  refine ⟨rfl, ?_, by decide⟩
  simp [cpuRows, cpuRows4]
/-- RecognisesExactlyTheTable: a word in an RSP row and a word in none. -/
theorem witness_RecognisesExactlyTheTable_rsp :
    InRow 0x4BFFFFDD#32 (0xFE00003F#32, 0x4A00001D#32) ∧ (0xFE00003F#32, 0x4A00001D#32) ∈ rspRows
    ∧ (rspRows.all fun row => decide (0x49FFFFDD#32 &&& row.1 ≠ row.2)) = true := by
  refine ⟨rfl, ?_, by decide⟩
  simp [rspRows, rspRows3]
/-- UnrecognisedWords: for the CPU, words beside COP0's ERET and in no map; for the RSP, words beside LQV, beside the vector
map and in no map. -/
theorem witness_UnrecognisedWords :
    ((∀ i, decodeCpuWord 0xFFFFFFFF#32 ≠ .ok i) ∧ ∀ i, decodeCpuWord 0x42200018#32 ≠ .ok i)
    ∧ (∀ i, decodeRspWord 0xFFFFFFFF#32 ≠ .ok i) ∧ (∀ i, decodeRspWord 0xC8411801#32 ≠ .ok i)
    ∧ ∀ i, decodeRspWord 0x48020810#32 ≠ .ok i := by
  refine ⟨⟨?_, ?_⟩, ?_, ?_, ?_⟩ <;> intro i h <;> cases h
/-- UnrecognisedWords, at a step: the CPU's schedule empty and with a CPU step first, and an RSP step first. -/
theorem witness_UnrecognisedWords_step :
    (∀ i, decodeCpuWord (cpuAt 0xFFFFFFFF#32 []).fetch ≠ .ok i) ∧ (cpuAt 0xFFFFFFFF#32 []).calls = []
    ∧ ((cpuAt 0xFFFFFFFF#32 []).callNext .cpuStep).calls = .cpuStep :: []
    ∧ (∀ i, decodeRspWord ((rspAt 0xFFFFFFFF#32 []).imemRead (rspAt 0xFFFFFFFF#32 []).rsp.pc) ≠ .ok i)
    ∧ (rspAt 0xFFFFFFFF#32 []).calls = .rspStep :: [] := by
  have h1 : (cpuAt 0xFFFFFFFF#32 []).fetch = 0xFFFFFFFF#32 := by decide
  have h2 : (rspAt 0xFFFFFFFF#32 []).imemRead (rspAt 0xFFFFFFFF#32 []).rsp.pc = 0xFFFFFFFF#32 := by decide
  rw [h1, h2]
  exact ⟨witness_UnrecognisedWords.1.1, rfl, rfl, witness_UnrecognisedWords.2.1, rfl⟩
/-- TrappingArithmetic: the largest and smallest results that fit, and the first that do not. -/
theorem witness_TrappingArithmetic :
    FitsWord ((0x7FFFFFFE#32).toInt + (1#32).toInt) ∧ ¬FitsWord ((0x7FFFFFFF#32).toInt + (1#32).toInt)
    ∧ FitsWord ((0x80000001#32).toInt - (1#32).toInt) ∧ ¬FitsWord ((0x80000000#32).toInt - (1#32).toInt)
    ∧ FitsWord ((0x7FFF8000#32).toInt + (0x7FFF#16).toInt) ∧ ¬FitsWord ((0x7FFF8001#32).toInt + (0x7FFF#16).toInt)
    ∧ ((cpuAt 0#32 [(1#5, 0x7FFFFFFE#64), (2#5, 1#64)]).getW 1#5 = 0x7FFFFFFE#32) := by
  decide
/-- OverflowExactlyOutsideRange: each condition true and false. -/
theorem witness_OverflowExactlyOutsideRange :
    addOverflow 0x7FFFFFFF#32 1#32 = true ∧ addOverflow 0x7FFFFFFE#32 1#32 = false
    ∧ addOverflow 0x80000000#32 (BitVec.ofInt 32 (0xFFFF#16).toInt) = true ∧ subOverflow 0x80000000#32 1#32 = true
    ∧ subOverflow 0x80000000#32 0#32 = false := by
  decide
/-- The clauses on the words of an instruction, map by map (CpuPrimary, CpuSpecial, CpuRegimm, CpuCop0, RspPrimary,
RspSpecial, RspRegimm, RspVector, RspQuad, RdpCommand): words whose other bits are all set. -/
theorem witness_encodings :
    fieldOpcode 0x03FFFFE0#32 = 0#6 ∧ fieldFunct 0x03FFFFE0#32 = 0x20#6 ∧ fieldOpcode 0x23FFFFFF#32 = 0x08#6
    ∧ fieldOpcode 0x83FFFFFF#32 = 0x20#6 ∧ fieldOpcode 0xC3FFFFFF#32 = 0x30#6 ∧ fieldOpcode 0xE3FFFFFF#32 = 0x38#6
    ∧ fieldOpcode 0x07F1FFFF#32 = 0x01#6 ∧ fieldRt 0x07F1FFFF#32 = 0x11#5
    ∧ fieldOpcode 0x409FFFFF#32 = 0x10#6 ∧ fieldRs 0x409FFFFF#32 = 0x04#5
    ∧ fieldOpcode 0x4BFFFFD1#32 = 0x12#6 ∧ (0x4BFFFFD1#32).getLsbD 25 = true ∧ fieldFunct 0x4BFFFFD1#32 = 0x11#6
    ∧ fieldOpcode 0xEBFF27FF#32 = 0x3A#6 ∧ (0xEBFF27FF#32).extractLsb' 11 5 = 0x04#5
    ∧ fieldOpcode 0xFFFFFFFF#32 = 0x3F#6 ∧ fieldOpcode 0x93FFFFFF#32 = 0x24#6 := by
  decide
/-- DivideTruncates: a nonzero divisor, with and without the overflowing dividend. -/
theorem witness_DivideTruncates :
    (cpuAt 0#32 [(1#5, 0xFFFFFFFF80000001#64), (2#5, 0xFFFFFFFFFFFFFFFF#64)]).getW 2#5 ≠ 0#32
    ∧ ¬(((cpuAt 0#32 [(1#5, 0xFFFFFFFF80000001#64), (2#5, 0xFFFFFFFFFFFFFFFF#64)]).getW 1#5).toInt = -2 ^ 31
      ∧ ((cpuAt 0#32 [(1#5, 0xFFFFFFFF80000001#64), (2#5, 0xFFFFFFFFFFFFFFFF#64)]).getW 2#5).toInt = -1)
    ∧ ¬((0x80000000#32).toInt = -2 ^ 31 ∧ (1#32).toInt = -1) := by
  decide
/-- DivideCorners, and the default's two cases of the dividend's sign. -/
theorem witness_DivideCorners :
    (cpuAt 0#32 [(1#5, 5#64)]).getW 2#5 = 0#32
    ∧ (cpuAt 0#32 [(1#5, 0x80000000#64), (2#5, 0xFFFFFFFF#64)]).getW 1#5 = 0x80000000#32
    ∧ (cpuAt 0#32 [(1#5, 0x80000000#64), (2#5, 0xFFFFFFFF#64)]).getW 2#5 = 0xFFFFFFFF#32
    ∧ 0 ≤ (0#32).toInt ∧ ¬0 ≤ (0xFFFFFFFF#32).toInt := by
  decide
/-- OnlyLwuBreaksCanonicalRegisters: after reset every register is canonical, and the next instruction is no LWU. -/
theorem witness_OnlyLwuBreaksCanonicalRegisters :
    (∀ rt base off, Instr.sll 0#5 0#5 0#5 ≠ .lwu rt base off) ∧ (∀ r, IsCanonical (State.reset.getX r))
    ∧ IsCanonical State.reset.cpu.hi ∧ IsCanonical State.reset.cpu.lo ∧ ∃ t, exec (.sll 0#5 0#5 0#5) State.reset = .next t := by
  refine ⟨fun _ _ _ h => (nomatch h), fun r k _ _ => ?_, fun k _ _ => ?_, fun k _ _ => ?_, _, rfl⟩
  · have hr : State.reset.getX r = 0#64 := by
      simp [State.getX, regRead, State.reset, State.init, Cpu.reset]
    simp [hr]
  · simp [State.reset, State.init, Cpu.reset]
  · simp [State.reset, State.init, Cpu.reset]
/-- MemReadIsBigEndian: the bounds of every window, and both ends of every hole, with a Cartridge and without one. -/
theorem witness_MemReadIsBigEndian :
    physAddr 0x803FFFFF#32 < 0x400000 ∧ ¬physAddr 0x80400000#32 < 0x400000
    ∧ physAddr 0xA4000000#32 = 0x04000000 ∧ physAddr 0xA4000FFF#32 ≤ 0x04000FFF
    ∧ physAddr 0xA4001000#32 = 0x04001000 ∧ physAddr 0xA4001FFF#32 ≤ 0x04001FFF
    ∧ physAddr 0xA8000000#32 = 0x08000000 ∧ physAddr 0xA80001FF#32 < 0x08000000 + withCart.saveSize
    ∧ withCart.params.inRegwin (physAddr 0xA8000000#32) = false ∧ DefaultMap withCart ∧ DefaultMap State.reset
    ∧ withCart.params = Params.default := by
  decide
/-- MemReadIsBigEndian: addresses that the map leaves out. -/
theorem witness_unmapped :
    UnmappedAt withCart (physAddr 0x80400000#32) ∧ UnmappedAt withCart (physAddr 0xA4040014#32)
    ∧ UnmappedAt withCart (physAddr 0xA8000200#32) ∧ UnmappedAt withCart (physAddr 0xFFFFFFFF#32)
    ∧ UnmappedAt State.reset (physAddr 0xA8000000#32) ∧ UnmappedAt State.reset (physAddr 0xB0000000#32) := by
  refine ⟨⟨?_, ?_, ?_, ?_, ?_⟩, ⟨?_, ?_, ?_, ?_, ?_⟩, ⟨?_, ?_, ?_, ?_, ?_⟩, ⟨?_, ?_, ?_, ?_, ?_⟩, ⟨?_, ?_, ?_, ?_, ?_⟩,
    ⟨?_, ?_, ?_, ?_, ?_⟩⟩ <;> decide
/-- MemReadIsBigEndian: each clause of the holes at both its ends. -/
theorem witness_holes :
    (∀ pa ∈ [0x00400000, 0x03FFFFFF, 0x04002000, 0x0403FFFF, 0x04040014, 0x0407FFFF, 0x04080004, 0x040FFFFF, 0x04100008,
      0x07FFFFFF, 0x08000200, 0x0FFFFFFF, 0x1FC00000, 0x1FFFFFFF], DefaultHole withCart pa)
    ∧ DefaultHole State.reset 0x08000000 ∧ DefaultHole State.reset 0x1FBFFFFF ∧ ¬DefaultHole withCart 0x080001FF
    ∧ ¬DefaultHole withCart 0x1FBFFFFF := by
  refine ⟨?_, ?_, ?_, ?_, ?_⟩ <;> unfold DefaultHole <;> decide
/-- RdramBytes. -/
theorem witness_RdramBytes :
    0x3FFFFF < State.reset.params.rdramSize ∧ (1 : Nat) ≠ 0 ∧ ¬0x400000 < State.reset.params.rdramSize := by decide
/-- LoadInstructions, StoreInstructions, LinkedLoadAndStore: an effective address below its base, wrapping. -/
theorem witness_effective_address :
    0xFFFFFFFE#32 = BitVec.ofInt 32 (((cpuAt 0#32 [(1#5, 2#64)]).getX 1#5).toNat + (0xFFFC#16).toInt) := by decide
/-- StoreInstructions: a word store at no register; StoreToBusRegister, BusRegisterReads: each register's address. -/
theorem witness_StoreToBusRegister :
    registerAt State.reset (physAddr 0x80002000#32) = none ∧ registerAt State.reset (physAddr 0xA4040001#32) = none
    ∧ registerAt State.reset (physAddr 0xA4040000#32) = some .spMemAddr
    ∧ registerAt State.reset (physAddr 0xA4040004#32) = some .spDramAddr
    ∧ registerAt State.reset (physAddr 0xA4040008#32) = some .spRdLen
    ∧ registerAt State.reset (physAddr 0xA404000C#32) = some .spWrLen
    ∧ registerAt State.reset (physAddr 0xA4040010#32) = some .spStatus
    ∧ registerAt State.reset (physAddr 0xA4080000#32) = some .spPc
    ∧ registerAt State.reset (physAddr 0xA4100000#32) = some .dpcStart
    ∧ registerAt State.reset (physAddr 0xA4100004#32) = some .dpcEnd := by
  decide
/-- BusRegisterReads: the misaligned word, at both ends of the SP window and of the DPC window; a halfword at a register;
an address that is none of the eight. -/
theorem witness_BusRegisterReads :
    State.reset.params.rdramSize ≤ physAddr 0xA4040001#32 ∧ 0x04001FFF < physAddr 0xA4040001#32
    ∧ (∃ row ∈ State.reset.params.regwin, row.1 ≤ physAddr 0xA4040001#32 ∧ physAddr 0xA4040001#32 < row.1 + 4)
    ∧ physAddr 0xA4040001#32 % 4 ≠ 0 ∧ physAddr 0xA4040013#32 = 0x04040013 ∧ physAddr 0xA4100007#32 = 0x04100007
    ∧ (Access.half = .word → physAddr 0xA4040000#32 % 4 ≠ 0) ∧ DefaultMap State.reset
    ∧ 0x04040014 ∉ [0x04040000, 0x04040004, 0x04040008, 0x0404000C, 0x04040010, 0x04080000, 0x04100000, 0x04100004] := by
  decide
/-- LinkedLoadAndStore: the flag clear and set. -/
theorem witness_LinkedLoadAndStore : State.reset.cpu.llFlag = false ∧ (State.reset.setLl true).cpu.llFlag = true := by decide
/-- LinkedFlagRule. -/
theorem witness_LinkedFlagRule :
    (∀ rt base off, Instr.sw 1#5 2#5 0#16 ≠ .ll rt base off) ∧ ∀ rt base off, Instr.sw 1#5 2#5 0#16 ≠ .sc rt base off :=
  ⟨fun _ _ _ h => (nomatch h), fun _ _ _ h => (nomatch h)⟩
/-- LinkedFlagRule and InterruptLinePorts, the clauses on port calls: a DMA. -/
theorem witness_port_calls :
    PortCall.dmaToDmem 0 0 1 ≠ .cpuStep ∧ PortCall.dmaToDmem 0 0 1 ≠ .reset ∧ (∀ l, PortCall.dmaToDmem 0 0 1 ≠ .irqSet l)
    ∧ ∀ l, PortCall.dmaToDmem 0 0 1 ≠ .irqClear l :=
  ⟨by decide, by decide, fun _ h => (nomatch h), fun _ h => (nomatch h)⟩
/-- CartridgeRom: the first and last byte of the window, and a banked ROM. -/
theorem witness_CartridgeRom :
    withCart.cart = some romCart ∧ physAddr 0xB0000000#32 = 0x10000000 + 0 ∧ physAddr 0xB0000000#32 ≤ 0x1FBFFFFF
    ∧ withCart.params.rdramSize ≤ physAddr 0xB0000000#32 ∧ withCart.params.inRegwin (physAddr 0xB0000000#32) = false
    ∧ 0x08000000 + withCart.saveSize ≤ physAddr 0xB0000000#32
    ∧ physAddr 0x1FBFFFFF#32 = 0x10000000 + 0x0FBFFFFF ∧ physAddr 0x1FBFFFFF#32 ≤ 0x1FBFFFFF ∧ DefaultMap withCart
    ∧ withCart.bank = 0 ∧ 0 + Access.word.size ≤ min romCart.rom.length 0x200000
    ∧ 0x200000 < ({ romCart with rom := List.replicate 0x200001 0#8 } : Cartridge).rom.length := by
  refine ⟨rfl, by decide, by decide, by decide, by decide, by decide, by decide, by decide, by decide, rfl, by decide, ?_⟩
  show 0x200000 < (List.replicate 0x200001 0#8).length
  rw [List.length_replicate]
  decide
/-- SaveBuffer: the last byte, an empty buffer, both lengths, and a machine with a Cartridge of that size. -/
theorem witness_SaveBuffer :
    511 < Params.default.saveSize romCart.saveType ∧ Params.default.saveSize (cartridgeOf .default [] s1Image).saveType = 0
    ∧ withCart.cart = some romCart ∧ 512 = withCart.params.saveSize romCart.saveType
    ∧ (List.replicate 512 1#8).length = 512 ∧ (List.replicate 511 1#8).length ≠ 512
    ∧ (∃ d, romCart.saveLoad 512 (List.replicate 512 1#8) = some d) ∧ romCart.saveLoad 512 (List.replicate 511 1#8) = none := by
  refine ⟨by decide, by decide, rfl, by decide, List.length_replicate .., ?_, ⟨_, if_pos (List.length_replicate ..)⟩,
    test_save_load_wrong_length.1⟩
  rw [List.length_replicate]
  decide
/-- The image of S1 with the title "MYSTERY GAME" (20_memory R118). -/
def mysteryImage : List Byte := imageOf goodMagic 0x0F#8 [0x80#8, 0#8, 0x10#8, 0#8] mysteryGame

/-- The entry point of the image of S1 with these bytes at 8. -/
def entryOf (bytes : List Byte) : Nat :=
  bigEndian ((List.range 4).map fun i => (imageOf goodMagic 1#8 bytes testGame).getD (0x08 + i) 0#8)

/-- CartridgeConstruction: each check's failure and success at the bounds of its range. -/
theorem witness_CartridgeConstruction :
    (s1Image.take 0x3F).length < 0x40 ∧ 0x40 ≤ s1Image.length
    ∧ (imageOf [0x12#8, 0x37#8, 0x12#8, 0x40#8] 0x0F#8 [0x80#8, 0#8, 0x10#8, 0#8] testGame).take 4 ∉
      [[0x80#8, 0x37#8, 0x12#8, 0x40#8], [0x37#8, 0x80#8, 0x40#8, 0x12#8], [0x40#8, 0x12#8, 0x37#8, 0x80#8]]
    ∧ s1Image.getD 4 0#8 ∉ Params.default.implausibleClocks ∧ 0#8 ∈ Params.default.implausibleClocks
    ∧ (imageOf goodMagic 0#8 [0x80#8, 0#8, 0x10#8, 0#8] testGame).getD 4 0#8 = 0#8
    ∧ entryOf [0x80#8, 0x7F#8, 0xFF#8, 0xFF#8] = 0x807FFFFF ∧ entryOf [0x80#8, 0x80#8, 0#8, 0#8] = 0x80800000
    ∧ entryOf [0x80#8, 0#8, 0#8, 0#8] = 0x80000000 ∧ entryOf [0x7F#8, 0xFF#8, 0xFF#8, 0xFF#8] = 0x7FFFFFFF := by
  decide
/-- CartridgeConstruction: an image of each ordering. -/
theorem witness_orderings :
    Normalised s1Image s1Image ∧ Normalised (swapPairs s1Image) s1Image ∧ Normalised (reverseQuads s1Image) s1Image
    ∧ (reverseQuads s1Image).take 4 = [0x40#8, 0x12#8, 0x37#8, 0x80#8] := by
  simp only [← normaliseImage_eq_some_iff]
  decide
/-- CartridgeConstruction: an image titled "MYSTERY GAME" builds by the machine's own table. -/
theorem witness_mysteryGame :
    constructCartridge .default saveTitleTable mysteryImage = .ok (cartridgeOf .default saveTitleTable mysteryImage)
    ∧ (cartridgeOf .default saveTitleTable mysteryImage).title = mysteryGame :=
  ⟨constructCartridge_of_normalised .default saveTitleTable (image := mysteryImage) (rom := mysteryImage) (by decide)
    ((normaliseImage_eq_some_iff mysteryImage mysteryImage).1 (by decide)), by decide⟩
/-- BranchAndAdvance. -/
theorem witness_BranchAndAdvance : (inSlot 0#32).cpu.delayFlag = true ∧ State.reset.cpu.delayFlag = false := by decide
/-- ConditionalBranches: each condition true in one state and false in another, and a target behind the branch. -/
theorem witness_ConditionalBranches :
    (State.reset.getX 0#5 = State.reset.getX 1#5) ∧ ((cpuAt 0#32 [(1#5, 1#64)]).getX 1#5 ≠ (cpuAt 0#32 [(1#5, 1#64)]).getX 0#5)
    ∧ ((cpuAt 0#32 []).getX 1#5).toInt ≤ 0 ∧ 0 ≤ ((cpuAt 0#32 []).getX 1#5).toInt
    ∧ 0 < ((cpuAt 0#32 [(1#5, 1#64)]).getX 1#5).toInt ∧ ((cpuAt 0#32 [(1#5, 0x8000000000000000#64)]).getX 1#5).toInt < 0
    ∧ 0x80001000#32 = BitVec.ofInt 32 ((cpuAt 0#32 []).cpu.pc.toNat + 4 + (0xFFFF#16).toInt * 4) := by
  decide
/-- Jumps: a target in the region of the word after the jump, and a register target. -/
theorem witness_Jumps :
    0x80001000#32 = BitVec.ofNat 32 (((cpuAt 0#32 []).cpu.pc.toNat + 4) % 2 ^ 32 / 2 ^ 28 * 2 ^ 28 + (0x400#26).toNat * 4)
    ∧ 0x80002000#32 = BitVec.ofNat 32 (((cpuAt 0#32 [(2#5, 0x1234567880002003#64)]).getX 2#5).toNat % 2 ^ 32 / 4 * 4) := by
  decide
/-- Cop0Moves: a slot that is not Cause; the slots that discard and one that does not. -/
theorem witness_Cop0Moves : 12#5 ≠ 13#5 ∧ 12#5 ≠ 15#5 ∧ 12#5 ≠ 16#5 := by decide
/-- EretReturns and SyscallAndBreakRaise: words with every bit that is no key set. -/
theorem witness_system_words :
    fieldOpcode 0x421FFFD8#32 = 0x10#6 ∧ fieldRs 0x421FFFD8#32 = 0x10#5 ∧ fieldFunct 0x421FFFD8#32 = 0x18#6
    ∧ fieldOpcode 0x03FFFFCC#32 = 0#6 ∧ fieldFunct 0x03FFFFCC#32 = 0x0C#6
    ∧ fieldOpcode 0x03FFFFCD#32 = 0#6 ∧ fieldFunct 0x03FFFFCD#32 = 0x0D#6 := by
  decide
/-- ExceptionRoundTrip: outside a slot and in one. -/
theorem witness_ExceptionRoundTrip :
    State.reset.cpu.pc &&& 3#32 = 0#32 ∧ (inSlot 0#32).cpu.pc &&& 3#32 = 0#32 ∧ (inSlot 0#32).cpu.delayFlag = true := by decide
/-- InterruptPoll: the exception due, and each condition missing; a step that raises. -/
theorem witness_InterruptPoll :
    (withIrq (withC0 (cpuAt 0#32 []) 12#5 1#32) 8#4).cpu.irq ≠ 0#4
    ∧ ((withC0 (cpuAt 0#32 []) 12#5 1#32).getC0 12#5).getLsbD 0 = true
    ∧ ((withC0 (cpuAt 0#32 []) 12#5 1#32).getC0 12#5).getLsbD 1 = false
    ∧ State.reset.cpu.irq = 0#4 ∧ ((withC0 (cpuAt 0#32 []) 12#5 2#32).getC0 12#5).getLsbD 0 = false
    ∧ ((withC0 (cpuAt 0#32 []) 12#5 3#32).getC0 12#5).getLsbD 1 = true
    ∧ cpuExecute (cpuAt 0x0000000C#32 []).fetch (cpuAt 0x0000000C#32 []) = .next ((cpuAt 0x0000000C#32 []).enterException .sys) := by
  exact ⟨by decide, by decide, by decide, by decide, by decide, by decide, by rfl⟩
/-- RspLoads, RspStores, VectorLoadStore: addresses that wrap at both ends of DMEM. -/
theorem witness_rsp_addresses :
    0xFFE = ((((rspAt 0#32 []).getR 1#5).toInt + (0xFFFE#16).toInt) % 4096).toNat
    ∧ 0x010 = ((((rspAt 0#32 [(1#5, 0xFFFFF010#32)]).getR 1#5).toInt + (0#16).toInt) % 4096).toNat
    ∧ 0xD00 = ((((rspAt 0#32 [(2#5, 0x100#32)]).getR 2#5).toInt + (0x40#7).toInt * 16) % 4096).toNat := by
  decide
/-- RspBranchInstructions and RspJumps: targets within IMEM, wrapping, and conditions true and false. -/
theorem witness_rsp_targets :
    0x004#12 = BitVec.ofInt 12 (((0xFFC#12).toNat + 4 + (1#16).toInt * 4) / 4 * 4)
    ∧ 0xFFC#12 = BitVec.ofNat 12 ((0x7FF#26).toNat * 4)
    ∧ 0x120#12 = BitVec.ofNat 12 (((rspAt 0#32 [(2#5, 0xFFFFF123#32)]).getR 2#5).toNat / 4 * 4)
    ∧ ((rspAt 0#32 [(1#5, 0x80000000#32)]).getR 1#5).toInt < 0 ∧ 0 < ((rspAt 0#32 [(1#5, 1#32)]).getR 1#5).toInt
    ∧ ((rspAt 0#32 []).getR 1#5).toInt = 0 := by
  decide
/-- RspRunStates: an RSP that does not run and one that does; an instruction that is no BREAK. -/
theorem witness_RspRunStates :
    State.reset.rsp.run ≠ .running ∧ ({ Rsp.reset with run := .broke } : Rsp).run ≠ .running ∧ busy.rsp.run = .running
    ∧ (Instr.rspJ 0#26).block = .rsp ∧ (∀ code, Instr.rspJ 0#26 ≠ .rspBreak code)
    ∧ ∃ t, exec (.rspJ 0#26) State.reset = .next t :=
  ⟨by decide, by decide, rfl, rfl, fun _ h => (nomatch h), _, rfl⟩
/-- VectorArithmetic: the lanes of two registers, lane for lane and broadcast at the bounds of `e`. -/
theorem witness_VectorArithmetic :
    (∀ k : Fin 8, 0#16 = ((rspAt 0#32 []).getV 1#5)[k]) ∧ (∀ k : Fin 8, 0#16 = laneOf ((rspAt 0#32 []).getV 2#5) 7#4 k)
    ∧ (∀ k : Fin 8, 3#16 = laneOf #v[3#16, 0#16, 0#16, 0#16, 0#16, 0#16, 0#16, 4#16] 8#4 k)
    ∧ ∀ k : Fin 8, 4#16 = laneOf #v[3#16, 0#16, 0#16, 0#16, 0#16, 0#16, 0#16, 4#16] 15#4 k := by
  decide
/-- VectorLoadStore: the store and the load that follows it both complete. -/
theorem witness_VectorLoadStore :
    ∃ t u, exec (.sqv 1#5 2#5 0x7F#7) State.reset = .next t ∧ exec (.lqv 1#5 2#5 0x7F#7) t = .next u := ⟨_, _, rfl, rfl⟩
/-- RspIsIsolated. -/
theorem witness_RspIsIsolated :
    (Instr.rspBreak 0#20).block = .rsp ∧ { State.reset with bank := 1 }.rsp = State.reset.rsp := ⟨rfl, rfl⟩
/-- DmaPorts: the clauses' indices, in a transfer that wraps past itself and in one that does not. -/
theorem witness_DmaPorts :
    (∀ j, 0 < j → j < 4096 → (0 + j) % 4096 ≠ (0 + 0) % 4096) ∧ (∀ i, i < 1 → 1 ≠ (0 + i) % 4096)
    ∧ (0x3FFFFF < 0x400000 ∧ 0x3FFFFE ≤ 0x3FFFFF ∧ 0x3FFFFF < 0x3FFFFE + 2) := by
  refine ⟨fun j h h' => by omega, fun i h => by omega, by decide⟩
/-- RectanglesPaint: a pixel inside, and pixels just outside, a rectangle that the buffer clips. -/
theorem witness_RectanglesPaint :
    319 < 320 ∧ 239 < 240 ∧ (0x4D8#12).toNat / 4 ≤ 319 ∧ 319 < (0x640#12).toNat / 4 ∧ ¬(0x4D8#12).toNat / 4 ≤ 309 := by decide
/-- DrainByCommand, a recognised command of each length and an unknown one with the longest tail; DrainEmptiesQueue, a
command cut off by one word. -/
theorem witness_DrainByCommand :
    ([0#32].length = State.reset.params.rdpLen (fieldOpcode 0xA4000000#32) ∧ fieldOpcode 0xA4000000#32 ∈ knownRdpOpcodes)
    ∧ ([0#32, 0#32, 0#32].length = State.reset.params.rdpLen (fieldOpcode 0x90000000#32)
      ∧ fieldOpcode 0x90000000#32 ∈ knownRdpOpcodes)
    ∧ ((List.replicate 43 0#32).length = State.reset.params.rdpLen (fieldOpcode 0x3C000000#32)
      ∧ fieldOpcode 0x3C000000#32 ∉ knownRdpOpcodes)
    ∧ [0#32, 0#32].length < State.reset.params.rdpLen (fieldOpcode 0x90000000#32) := by
  decide

end Sys2Proof.Tests
end

section
/-! The RSP is isolated (44 R323, R389): every RSP instruction is a chain of the RSP's named operations, each of which reads
and changes the RSP alone and leaves IMEM and the two DMA latches as they were. -/

namespace Sys2Proof.Machine

/-- A machine with this RSP and everything else as at reset. -/
def State.ofRsp (r : Rsp) : State := { State.reset with rsp := r }

/-- `f` reads nothing of the state but its RSP. -/
def ReadsRsp {α : Type} (f : State → α) : Prop := ∀ s, f s = f (.ofRsp s.rsp)

/-- `f` reads and changes nothing but the RSP, and of the RSP it leaves IMEM and the two DMA latches as they were. -/
structure RspOnly (f : State → State) : Prop where
  frame : ∀ s, f s = { s with rsp := (f (.ofRsp s.rsp)).rsp }
  imem : ∀ s, (f s).rsp.imem = s.rsp.imem
  memAddr : ∀ s, (f s).rsp.memAddr = s.rsp.memAddr
  dramAddr : ∀ s, (f s).rsp.dramAddr = s.rsp.dramAddr

namespace RspOnly

/-! ### What it gives -/

theorem sameOutsideRsp {f : State → State} (hf : RspOnly f) (s : State) : SameOutsideRsp s (f s) := by
  rw [hf.frame s]
  exact ⟨rfl, rfl, rfl, rfl, rfl, rfl, rfl, rfl⟩

theorem rsp_congr {f : State → State} (hf : RspOnly f) {s u : State} (h : u.rsp = s.rsp) : (f u).rsp = (f s).rsp := by
  rw [hf.frame u, hf.frame s, h]

/-! ### The RSP's operations -/

theorem id : RspOnly fun s => s := ⟨fun _ => rfl, fun _ => rfl, fun _ => rfl, fun _ => rfl⟩

theorem setR {rd : Reg} {v : State → Word} (hv : ReadsRsp v) : RspOnly fun s => s.setR rd (v s) where
  frame s := by
    rw [← hv s]
    rfl
  imem _ := rfl
  memAddr _ := rfl
  dramAddr _ := rfl

theorem setV {vd : Reg} {l : State → Vector Lane 8} (hl : ReadsRsp l) : RspOnly fun s => s.setV vd (l s) where
  frame s := by
    rw [← hl s]
    rfl
  imem _ := rfl
  memAddr _ := rfl
  dramAddr _ := rfl

theorem setRun (r : RunState) : RspOnly fun s => s.setRun r :=
  ⟨fun _ => rfl, fun _ => rfl, fun _ => rfl, fun _ => rfl⟩

theorem dmemWrite {a : State → Nat} {n : Access} {v : State → Word} (ha : ReadsRsp a) (hv : ReadsRsp v) :
    RspOnly fun s => s.dmemWrite (a s) n (v s) where
  frame s := by
    rw [← ha s, ← hv s]
    rfl
  imem _ := rfl
  memAddr _ := rfl
  dramAddr _ := rfl

theorem writeLanes {a : State → Nat} {l : State → Vector Lane 8} (ha : ReadsRsp a) (hl : ReadsRsp l) :
    RspOnly fun s => s.writeLanes (a s) (l s) where
  frame s := by
    obtain ⟨g, hg⟩ := writeLanes_frame (a s) (l s)
    rw [← ha s, ← hl s, hg, hg]
    rfl
  imem s := by
    obtain ⟨g, hg⟩ := writeLanes_frame (a s) (l s)
    rw [hg]
  memAddr s := by
    obtain ⟨g, hg⟩ := writeLanes_frame (a s) (l s)
    rw [hg]
  dramAddr s := by
    obtain ⟨g, hg⟩ := writeLanes_frame (a s) (l s)
    rw [hg]

/-! ### The end of an RSP step -/

/-- A branch or an advance after `f`; the condition and the target are read before `f` writes a link. -/
theorem retireIf {f : State → State} {c : State → Bool} {target : State → Local} (hf : RspOnly f) (hc : ReadsRsp c)
    (ht : ReadsRsp target) : RspOnly fun s => (f s).rspRetireIf (c s) (target s) where
  frame s := by
    rw [← hc s, ← ht s, hf.frame s]
    cases c s <;> rfl
  imem s := by cases c s <;> exact hf.imem s
  memAddr s := by cases c s <;> exact hf.memAddr s
  dramAddr s := by cases c s <;> exact hf.dramAddr s

theorem retire {f : State → State} (hf : RspOnly f) : RspOnly fun s => (f s).rspRetire :=
  hf.retireIf (c := fun _ => false) (target := fun _ => 0#12) (fun _ => rfl) (fun _ => rfl)

end RspOnly

/-! ### The instructions -/

/-- Every RSP instruction completes, by operations on the RSP alone. -/
theorem exec_rspOnly {i : Instr} (h : i.block = .rsp) : ∃ f, (∀ s, exec i s = .next (f s)) ∧ RspOnly f := by
  cases i
  case rspSll | rspSrl | rspSra | rspSllv | rspSrlv | rspSrav | rspAdd | rspAddu | rspSub | rspSubu | rspAnd | rspOr
      | rspXor | rspNor | rspSlt | rspSltu | rspAddi | rspAddiu | rspSlti | rspSltiu | rspAndi | rspOri | rspXori | rspLui
      | rspLb | rspLh | rspLw | rspLbu | rspLhu =>
    exact ⟨_, fun _ => rfl, .retire (.setR fun _ => rfl)⟩
  case vmulf | vmudl | vmudn | vmudh | vadd | vsub | lqv => exact ⟨_, fun _ => rfl, .retire (.setV fun _ => rfl)⟩
  case rspSb | rspSh | rspSw => exact ⟨_, fun _ => rfl, .retire (.dmemWrite (fun _ => rfl) fun _ => rfl)⟩
  case sqv => exact ⟨_, fun _ => rfl, .retire (.writeLanes (fun _ => rfl) fun _ => rfl)⟩
  case rspJ | rspJr | rspBeq | rspBne | rspBlez | rspBgtz | rspBltz | rspBgez =>
    exact ⟨_, fun _ => rfl, .retireIf .id (fun _ => rfl) fun _ => rfl⟩
  case rspJal | rspJalr | rspBltzal | rspBgezal =>
    exact ⟨_, fun _ => rfl, .retireIf (.setR fun _ => rfl) (fun _ => rfl) fun _ => rfl⟩
  case rspBreak => exact ⟨_, fun _ => rfl, .retire (.setRun _)⟩
  case vsar => exact ⟨_, fun _ => rfl, .retire .id⟩
  all_goals nomatch h

/-- Settles O54: what an RSP instruction does is a chain of operations on the RSP alone. -/
theorem rspIsIsolated : Obligations.RspIsIsolated := by
  intro i s h
  obtain ⟨f, hexec, hf⟩ := exec_rspOnly h
  exact ⟨f s, hexec s, hf.sameOutsideRsp s, hf.imem s, hf.memAddr s, hf.dramAddr s,
    fun u hu => ⟨f u, hexec u, hf.rsp_congr hu⟩⟩

end Sys2Proof.Machine
end

section
/-! Who drives the interrupt lines (60 R470). `Keeps` says that a run completes and leaves one part of the state as it was;
it composes as the ports compose. The RSP, the RDP, the DMA and the host's other ports leave the whole CPU as it was, and
the CPU step leaves its interrupt lines: that leaves the two line ports and reset. -/

namespace Sys2Proof.Machine

/-! ### Results that keep what an observation reads -/

/-- The result is a next state of which `f` reads what it reads of `s`. -/
def Keeps {α : Type} (f : State → α) (s : State) (r : Result) : Prop := ∃ t, r = .next t ∧ f t = f s

namespace Keeps

variable {α β : Type} {f : State → α} {s : State} {r : Result}

theorem next {t : State} (h : f t = f s) : Keeps f s (.next t) := ⟨t, rfl, h⟩

theorem ite {c : Prop} [Decidable c] {r' : Result} (h : Keeps f s r) (h' : Keeps f s r') :
    Keeps f s (if c then r else r') := by
  split
  · exact h
  · exact h'

/-- A part of what is kept is kept. -/
theorem map (g : α → β) (h : Keeps f s r) : Keeps (fun u => g (f u)) s r := by
  obtain ⟨t, hr, ht⟩ := h
  exact ⟨t, hr, congrArg g ht⟩

theorem andThen {k : State → Result} (h : Keeps f s r) (hk : ∀ t, Keeps f t (k t)) : Keeps f s (andThen r k) := by
  obtain ⟨t, rfl, ht⟩ := h
  obtain ⟨u, hu, hut⟩ := hk t
  exact ⟨u, hu, hut.trans ht⟩

/-- The reply of a call is not in the CPU. -/
theorem finish (h : Keeps State.cpu s r) : Keeps State.cpu s (finish r) := h.andThen fun _ => .next rfl

end Keeps

/-! ### The RSP and the RDP leave the CPU alone (44 R389, 45 R434) -/

theorem exec_keeps_cpu_of_rsp {i : Instr} (h : i.block = .rsp) (s : State) : Keeps State.cpu s (exec i s) := by
  obtain ⟨f, hexec, hf⟩ := exec_rspOnly h
  exact ⟨f s, hexec s, (hf.sameOutsideRsp s).cpu⟩

theorem exec_keeps_cpu_of_rdp {i : Instr} (h : i.block = .rdp) (s : State) : Keeps State.cpu s (exec i s) := by
  obtain ⟨t, ht, -, hcpu, -⟩ := rdp_frame h s
  exact ⟨t, ht, hcpu⟩

theorem rspStepOnce_keeps_cpu (s : State) : Keeps State.cpu s (rspStepOnce s) := by
  unfold rspStepOnce rspExecute
  split
  next i hd => exact exec_keeps_cpu_of_rsp (block_of_rsp hd) s
  next => exact .next rfl

theorem rspBurst_keeps_cpu (n : Nat) (s : State) : Keeps State.cpu s (rspBurst n s) := by
  induction n generalizing s with
  | zero => exact .next rfl
  | succ n ih => exact .ite ((rspStepOnce_keeps_cpu s).andThen ih) (.next rfl)

theorem drain_keeps_cpu (fuel : Nat) (s : State) : Keeps State.cpu s (drain fuel s) := by
  induction fuel generalizing s with
  | zero => exact .next rfl
  | succ fuel ih =>
    unfold drain
    split
    · exact .next rfl
    next w0 rest _ =>
      refine .ite (.next rfl) ?_
      split
      next i hd => exact (exec_keeps_cpu_of_rdp (block_of_rdp hd) (s.setQueue _)).andThen ih
      next => exact ih (s.setQueue _)

theorem processCommands_keeps_cpu (s : State) : Keeps State.cpu s (processCommands s) := drain_keeps_cpu _ s

/-! ### The host's ports that touch the Cartridge leave the CPU alone -/

theorem State.constructPort_cpu (s : State) (image : List Byte) : (s.constructPort image).cpu = s.cpu := by
  unfold State.constructPort
  split <;> rfl

theorem State.saveLoadPort_cpu (s : State) (bytes : List Byte) : (s.saveLoadPort bytes).cpu = s.cpu := by
  unfold State.saveLoadPort
  split <;> rfl

theorem State.savePersistPort_cpu (s : State) : s.savePersistPort.cpu = s.cpu := by
  unfold State.savePersistPort
  split <;> rfl

/-- Every port but the CPU step, the two line ports and reset leaves the CPU alone. -/
theorem runCall_keeps_cpu {c : PortCall} (s : State) (hstep : c ≠ .cpuStep) (hreset : c ≠ .reset)
    (hset : ∀ line, c ≠ .irqSet line) (hclear : ∀ line, c ≠ .irqClear line) : Keeps State.cpu s (runCall c s) := by
  cases c with
  | reset => exact absurd rfl hreset
  | cpuStep => exact absurd rfl hstep
  | irqSet line => exact absurd rfl (hset line)
  | irqClear line => exact absurd rfl (hclear line)
  | executeFrame => exact (rspBurst_keeps_cpu _ s).finish
  | rspStep => exact (rspStepOnce_keeps_cpu s).finish
  | processCommands => exact (processCommands_keeps_cpu s).finish
  | construct image => exact .next (s.constructPort_cpu image)
  | saveLoad bytes => exact .next (s.saveLoadPort_cpu bytes)
  | savePersist => exact .next s.savePersistPort_cpu
  | dmaToDmem | dmaFromDmem | kick | halt | enqueue | setBank | saveWrite | readFrame | saveRead => exact .next rfl

/-! ### The CPU writes no interrupt line -/

/-- The four interrupt lines (10_state R25). -/
def State.irqLines (s : State) : BitVec 4 := s.cpu.irq

theorem State.retireIf_irqLines (s : State) (c : Bool) (t : Word) : (s.retireIf c t).irqLines = s.irqLines := by
  cases c <;> rfl

theorem State.memWrite_irqLines (s : State) (a : Word) (n : Access) (v : Word) :
    (s.memWrite a n v).irqLines = s.irqLines :=
  congrArg Cpu.irq (s.memWrite_cpu a n v)

theorem State.poll_irqLines (s : State) : s.poll.irqLines = s.irqLines := by
  unfold State.poll
  split <;> rfl

theorem exec_keeps_irqLines_of_cpu {i : Instr} (h : i.block = .cpu) (s : State) : Keeps State.irqLines s (exec i s) := by
  cases i
  case sll | srl | sra | sllv | srlv | srav | addu | subu | and | or | xor | nor | slt | sltu | addiu | slti | sltiu | andi
      | ori | xori | lui | mfhi | mthi | mflo | mtlo | mult | multu | div | divu | lb | lh | lw | lbu | lhu | lwu | ll
      | mfc0 | mtc0 =>
    exact .next rfl
  case syscall | brk | eret => exact .next rfl
  case add | sub | addi => exact .ite (.next rfl) (.next rfl)
  case beq | bne | blez | bgtz | bltz | bgez | bltzal | bgezal | j | jal | jr | jalr =>
    exact .next (State.retireIf_irqLines _ _ _)
  case sb | sh | sw => exact .next (s.memWrite_irqLines _ _ _)
  case sc => exact .ite (.next (s.memWrite_irqLines _ _ _)) (.next rfl)
  all_goals nomatch h

theorem cpuExecute_keeps_irqLines (w : Word) (s : State) : Keeps State.irqLines s (cpuExecute w s) := by
  unfold cpuExecute
  split
  next i hd => exact exec_keeps_irqLines_of_cpu (block_of_cpu hd) s
  next => exact .next rfl

theorem cpuStep_keeps_irqLines (s : State) : Keeps State.irqLines s (cpuStep s) :=
  (cpuExecute_keeps_irqLines s.fetch s).andThen fun t => .next t.poll_irqLines

/-- No port but the two line ports and reset writes an interrupt line. -/
theorem runCall_keeps_irqLines {c : PortCall} (s : State) (hreset : c ≠ .reset) (hset : ∀ line, c ≠ .irqSet line)
    (hclear : ∀ line, c ≠ .irqClear line) : Keeps State.irqLines s (runCall c s) := by
  by_cases hstep : c = .cpuStep
  · exact hstep ▸ cpuStep_keeps_irqLines s
  · exact (runCall_keeps_cpu s hstep hreset hset hclear).map Cpu.irq

/-! ### The two line ports -/

theorem irqBit_is_one_bit (line : IrqLine) : ∃ k, k < 4 ∧ irqBit line = 1#4 <<< k := by
  cases line with
  | video => exact ⟨0, by decide⟩
  | serial => exact ⟨1, by decide⟩
  | peripheral => exact ⟨2, by decide⟩
  | audio => exact ⟨3, by decide⟩

theorem irqBit_disjoint {a b : IrqLine} (h : a ≠ b) : irqBit a &&& irqBit b = 0#4 := by
  cases a <;> cases b
  case video.video | serial.serial | peripheral.peripheral | audio.audio => exact absurd rfl h
  all_goals rfl

theorem setBits_and_mask {w : Nat} (v m : BitVec w) : (v ||| m) &&& m = m := by
  ext i
  simp [Bool.and_or_distrib_right]

theorem setBits_and_not_mask {w : Nat} (v m : BitVec w) : (v ||| m) &&& ~~~m = v &&& ~~~m := by
  ext i
  simp [Bool.and_or_distrib_right]

theorem clearBits_and_mask {w : Nat} (v m : BitVec w) : v &&& ~~~m &&& m = 0#w := by
  ext i
  simp

theorem clearBits_and_not_mask {w : Nat} (v m : BitVec w) : v &&& ~~~m &&& ~~~m = v &&& ~~~m := by
  ext i
  simp

/-- Settles O43: a line port sets or clears its own bit, and what every other port runs keeps the lines. -/
theorem interruptLinePorts : Obligations.InterruptLinePorts := by
  refine ⟨⟨irqBit_is_one_bit, fun _ _ => irqBit_disjoint⟩, fun s line => ⟨?_, ?_⟩,
    fun _ => runCall_keeps_irqLines⟩
  · exact ⟨(s.irqSet line).setReply .done, rfl, rfl, setBits_and_mask _ _, setBits_and_not_mask _ _⟩
  · exact ⟨(s.irqClear line).setReply .done, rfl, rfl, clearBits_and_mask _ _, clearBits_and_not_mask _ _⟩

end Sys2Proof.Machine
end

section
/-! Decode and encode (30_encoding R141 to R157; 45_rdp R401 to R424). A packed word is a disjunction of fields at disjoint
places, so every field reads back what was packed; the round trips follow instruction by instruction. -/

namespace Sys2Proof.Machine

/-! ### A field of a word put together from fields -/

section Fields

variable {v : Nat} (x : BitVec v)

/-- A field reads back what was put at its own place. -/
theorem extractLsb'_own_field {n : Nat} (h : n + v ≤ 32) : (x.setWidth 32 <<< n).extractLsb' n v = x := by
  ext i hi
  simp [show n + i < 32 by omega, BitVec.getLsbD_eq_getElem hi]

theorem extractLsb'_own_low_field (h : v ≤ 32) : (x.setWidth 32).extractLsb' 0 v = x := by
  simpa using extractLsb'_own_field x (n := 0) (by omega)

/-- A field above what was put into a word reads 0. -/
theorem extractLsb'_field_above {m n w : Nat} (h : m + v ≤ n) : (x.setWidth 32 <<< m).extractLsb' n w = 0#w := by
  ext i hi
  simp [BitVec.getLsbD_of_ge x (n + i - m) (by omega)]

theorem extractLsb'_field_above_low {n w : Nat} (h : v ≤ n) : (x.setWidth 32).extractLsb' n w = 0#w := by
  simpa using extractLsb'_field_above x (m := 0) (n := n) (w := w) (by omega)

/-- A field below what was put into a word reads 0. -/
theorem extractLsb'_field_below {m n w : Nat} (h : n + w ≤ m) : (x.setWidth 32 <<< m).extractLsb' n w = 0#w := by
  ext i hi
  simp [show n + i < m by omega]

end Fields

/-! ### The fields of a packed word -/

@[simp] theorem packR_fields (op : BitVec 6) (rs rt rd sh : BitVec 5) (f : BitVec 6) :
    fieldOpcode (packR op rs rt rd sh f) = op ∧ fieldRs (packR op rs rt rd sh f) = rs
      ∧ fieldRt (packR op rs rt rd sh f) = rt ∧ fieldRd (packR op rs rt rd sh f) = rd
      ∧ fieldShamt (packR op rs rt rd sh f) = sh ∧ fieldFunct (packR op rs rt rd sh f) = f := by
  simp [packR, fieldOpcode, fieldRs, fieldRt, fieldRd, fieldShamt, fieldFunct, BitVec.extractLsb'_or,
    extractLsb'_own_field, extractLsb'_own_low_field, extractLsb'_field_above, extractLsb'_field_above_low,
    extractLsb'_field_below]

@[simp] theorem packI_fields (op : BitVec 6) (rs rt : BitVec 5) (imm : BitVec 16) :
    fieldOpcode (packI op rs rt imm) = op ∧ fieldRs (packI op rs rt imm) = rs
      ∧ fieldRt (packI op rs rt imm) = rt ∧ fieldImm (packI op rs rt imm) = imm := by
  simp [packI, fieldOpcode, fieldRs, fieldRt, fieldImm, BitVec.extractLsb'_or, extractLsb'_own_field,
    extractLsb'_own_low_field, extractLsb'_field_above, extractLsb'_field_above_low, extractLsb'_field_below]

@[simp] theorem packJ_fields (op : BitVec 6) (target : BitVec 26) :
    fieldOpcode (packJ op target) = op ∧ fieldTarget (packJ op target) = target := by
  simp [packJ, fieldOpcode, fieldTarget, BitVec.extractLsb'_or, extractLsb'_own_field,
    extractLsb'_own_low_field, extractLsb'_field_above_low, extractLsb'_field_below]

/-- The leading word of SET_COMBINE_MODE: 24 bits in the 26 below the opcode (45_rdp R416). -/
@[simp] theorem packJ_combine (op : BitVec 6) (c0 : BitVec 24) :
    (packJ op (c0.setWidth 26)).extractLsb' 0 24 = c0 := by
  simp [packJ, BitVec.extractLsb'_or, extractLsb'_own_low_field, extractLsb'_field_below]

@[simp] theorem packCode_fields (code : BitVec 20) (f : BitVec 6) :
    fieldOpcode (packCode code f) = 0#6 ∧ fieldCode (packCode code f) = code ∧ fieldFunct (packCode code f) = f := by
  simp [packCode, fieldOpcode, fieldCode, fieldFunct, BitVec.extractLsb'_or, extractLsb'_own_field,
    extractLsb'_own_low_field, extractLsb'_field_above, extractLsb'_field_above_low, extractLsb'_field_below]

@[simp] theorem packV_fields (e : BitVec 4) (vt vs vd : BitVec 5) (f : BitVec 6) :
    fieldOpcode (packV e vt vs vd f) = 0x12#6 ∧ fieldVectorBit (packV e vt vs vd f) = 1#1
      ∧ fieldElement (packV e vt vs vd f) = e ∧ fieldRt (packV e vt vs vd f) = vt
      ∧ fieldRd (packV e vt vs vd f) = vs ∧ fieldVd (packV e vt vs vd f) = vd
      ∧ fieldFunct (packV e vt vs vd f) = f := by
  simp [packV, fieldOpcode, fieldVectorBit, fieldElement, fieldRt, fieldRd, fieldVd, fieldFunct,
    BitVec.extractLsb'_or, extractLsb'_own_field, extractLsb'_own_low_field, extractLsb'_field_above,
    extractLsb'_field_above_low, extractLsb'_field_below]

@[simp] theorem packQ_fields (op : BitVec 6) (base vt : BitVec 5) (off : BitVec 7) :
    fieldOpcode (packQ op base vt off) = op ∧ fieldRs (packQ op base vt off) = base
      ∧ fieldRt (packQ op base vt off) = vt ∧ fieldRd (packQ op base vt off) = 0x04#5
      ∧ fieldVectorOffset (packQ op base vt off) = off := by
  simp [packQ, fieldOpcode, fieldRs, fieldRt, fieldRd, fieldVectorOffset, BitVec.extractLsb'_or,
    extractLsb'_own_field, extractLsb'_own_low_field, extractLsb'_field_above, extractLsb'_field_above_low,
    extractLsb'_field_below]

@[simp] theorem packPair_fields (op : BitVec 6) (hi lo : BitVec 12) :
    fieldOpcode (packPair op hi lo) = op ∧ (packPair op hi lo).extractLsb' 12 12 = hi
      ∧ (packPair op hi lo).extractLsb' 0 12 = lo := by
  simp [packPair, fieldOpcode, BitVec.extractLsb'_or, extractLsb'_own_field, extractLsb'_own_low_field,
    extractLsb'_field_above, extractLsb'_field_above_low, extractLsb'_field_below]

/-- The second word of TEXTURE_RECTANGLE: the tile above a pair (45_rdp R422). -/
@[simp] theorem tile_packPair_fields (tile : BitVec 3) (hi lo : BitVec 12) :
    (tile.setWidth 32 <<< 24 ||| packPair 0#6 hi lo).extractLsb' 24 3 = tile
      ∧ (tile.setWidth 32 <<< 24 ||| packPair 0#6 hi lo).extractLsb' 12 12 = hi
      ∧ (tile.setWidth 32 <<< 24 ||| packPair 0#6 hi lo).extractLsb' 0 12 = lo := by
  simp [packPair, BitVec.extractLsb'_or, extractLsb'_own_field, extractLsb'_own_low_field,
    extractLsb'_field_above, extractLsb'_field_above_low, extractLsb'_field_below]

@[simp] theorem packHalves_fields (hi lo : BitVec 16) :
    (packHalves hi lo).extractLsb' 16 16 = hi ∧ (packHalves hi lo).extractLsb' 0 16 = lo := by
  simp [packHalves, BitVec.extractLsb'_or, extractLsb'_own_field, extractLsb'_own_low_field,
    extractLsb'_field_above_low, extractLsb'_field_below]

/-- An image's leading word holds its width less one, so a width in range reads back (45_rdp R410). -/
theorem packImage_fields (op : BitVec 6) (format : BitVec 3) (size : BitVec 2) {width : Nat}
    (h : 1 ≤ width ∧ width ≤ 1024) :
    fieldOpcode (packImage op format size width) = op ∧ (packImage op format size width).extractLsb' 21 3 = format
      ∧ (packImage op format size width).extractLsb' 19 2 = size
      ∧ fieldWidth (packImage op format size width) = width := by
  have hw : (width - 1) % 1024 + 1 = width := by omega
  simp [packImage, fieldOpcode, fieldWidth, BitVec.extractLsb'_or, extractLsb'_own_field,
    extractLsb'_own_low_field, extractLsb'_field_above, extractLsb'_field_above_low, extractLsb'_field_below, hw]

/-! ### Round trips -/

theorem decode_encode_cpu {i : Instr} (h : i.block = .cpu) : ∃ w, encode i = [w] ∧ decodeCpuWord w = .ok i := by
  cases i
  case sll | srl | sra | sllv | srlv | srav | jr | jalr | syscall | brk | mfhi | mthi | mflo | mtlo | mult | multu | div
      | divu | add | addu | sub | subu | and | or | xor | nor | slt | sltu =>
    exact ⟨_, rfl, by simp [decodeCpuWord, decodeCpuSpecial]⟩
  case bltz | bgez | bltzal | bgezal => exact ⟨_, rfl, by simp [decodeCpuWord, decodeCpuRegimm]⟩
  case mfc0 | mtc0 | eret => exact ⟨_, rfl, by simp [decodeCpuWord, decodeCpuCop0]⟩
  case j | jal | beq | bne | blez | bgtz | addi | addiu | slti | sltiu | andi | ori | xori | lui | lb | lh | lw | lbu | lhu
      | lwu | sb | sh | sw | ll | sc =>
    exact ⟨_, rfl, by simp [decodeCpuWord]⟩
  all_goals nomatch h

theorem decode_encode_rsp {i : Instr} (h : i.block = .rsp) : ∃ w, encode i = [w] ∧ decodeRspWord w = .ok i := by
  cases i
  case rspSll | rspSrl | rspSra | rspSllv | rspSrlv | rspSrav | rspJr | rspJalr | rspBreak | rspAdd | rspAddu | rspSub
      | rspSubu | rspAnd | rspOr | rspXor | rspNor | rspSlt | rspSltu =>
    exact ⟨_, rfl, by simp [decodeRspWord, decodeRspSpecial]⟩
  case rspBltz | rspBgez | rspBltzal | rspBgezal => exact ⟨_, rfl, by simp [decodeRspWord, decodeRspRegimm]⟩
  case vmulf | vmudl | vmudn | vmudh | vadd | vsub | vsar => exact ⟨_, rfl, by simp [decodeRspWord, decodeRspVector]⟩
  case lqv | sqv => exact ⟨_, rfl, by simp [decodeRspWord, decodeRspQuad]⟩
  case rspJ | rspJal | rspBeq | rspBne | rspBlez | rspBgtz | rspAddi | rspAddiu | rspSlti | rspSltiu | rspAndi | rspOri
      | rspXori | rspLui | rspLb | rspLh | rspLw | rspLbu | rspLhu | rspSb | rspSh | rspSw =>
    exact ⟨_, rfl, by simp [decodeRspWord]⟩
  all_goals nomatch h

/-- Settles O7: every instruction's fields read back from its packed word. -/
theorem roundTripProcessors : Obligations.RoundTripProcessors :=
  ⟨fun _ => decode_encode_cpu, fun _ => decode_encode_rsp⟩

/-- Settles O8: every command's fields read back from its packed words; a width in range survives its 10 bits. -/
theorem roundTripRdp : Obligations.RoundTripRdp := by
  intro i h hw
  cases i
  case setColorImage format size width addr | setTextureImage format size width addr =>
    have hwidth : 1 ≤ width ∧ width ≤ 1024 := by simpa [Instr.wellFormed] using hw
    have hfields := fun op => packImage_fields op format size hwidth
    exact ⟨_, _, rfl, by simp [hfields]; decide, by simp [decodeRdpCommand, hfields, extractLsb'_own_low_field]⟩
  case setCombineMode | setFillColor | setFogColor | setBlendColor | setEnvColor | setScissor | setOtherModes | fillRectangle
      | textureRectangle | syncFull =>
    exact ⟨_, _, rfl, by simp; decide, by simp [decodeRdpCommand]⟩
  all_goals nomatch h

/-- Settles O6: the decoders run on the words of the spec's worked examples. -/
theorem decodedWordsSanity : Obligations.DecodedWordsSanity := by
  unfold Obligations.DecodedWordsSanity
  decide

end Sys2Proof.Machine
end

section
/-! Which words each processor recognises (30_encoding R144 to R155). A row's mask is a union of field masks, so a word lies
in a row exactly when those of its fields are the row's; the decoders ask for the same fields. -/

namespace Sys2Proof.Machine

/-! ### Rows as conditions on fields -/

/-- The bits of the field of `l` bits at bit `n`. -/
def fieldMask (n l : Nat) : Word := (BitVec.allOnes l).setWidth 32 <<< n

theorem getLsbD_and_fieldMask (w : Word) (n l i : Nat) :
    (w &&& fieldMask n l).getLsbD i = (w.getLsbD i && decide (n ≤ i ∧ i < n + l)) := by
  have hplace : (!decide (i < n) && decide (i - n < l)) = decide (n ≤ i ∧ i < n + l) := by
    rw [Bool.eq_iff_iff]
    simp
    omega
  by_cases hi : i < 32
  · simp only [fieldMask, BitVec.getLsbD_and, BitVec.getLsbD_shiftLeft, BitVec.getLsbD_setWidth, BitVec.getLsbD_allOnes,
      hi, Nat.lt_of_le_of_lt (Nat.sub_le i n) hi, decide_true, Bool.true_and, hplace]
  · simp [BitVec.getLsbD_of_ge _ _ (Nat.le_of_not_lt hi)]

theorem and_fieldMask_eq_iff (w m : Word) (n l : Nat) :
    w &&& fieldMask n l = m &&& fieldMask n l ↔ w.extractLsb' n l = m.extractLsb' n l := by
  constructor <;> intro h <;> apply BitVec.eq_of_getLsbD_eq <;> intro i hi
  · have hbit := congrArg (·.getLsbD (n + i)) h
    simpa only [getLsbD_and_fieldMask, BitVec.getLsbD_extractLsb', Nat.le_add_right, Nat.add_lt_add_iff_left, hi, and_self,
      decide_true, Bool.and_true, Bool.true_and] using hbit
  · rw [getLsbD_and_fieldMask, getLsbD_and_fieldMask]
    by_cases hb : n ≤ i ∧ i < n + l
    · have hbit := congrArg (·.getLsbD (i - n)) h
      simp only [BitVec.getLsbD_extractLsb', show i - n < l by omega, show n + (i - n) = i by omega] at hbit
      simpa using congrArg (· && _) hbit
    · simp [hb]

/-- Agreeing on a union of masks is agreeing on each. -/
theorem and_or_eq_iff (w m a b : Word) :
    w &&& (a ||| b) = m &&& (a ||| b) ↔ w &&& a = m &&& a ∧ w &&& b = m &&& b := by
  constructor
  · intro h
    have part : ∀ c, (a ||| b) &&& c = c → w &&& c = m &&& c := fun c hc => by
      rw [← hc, ← BitVec.and_assoc, h, BitVec.and_assoc]
    exact ⟨part a (by ext; simp +contextual), part b (by ext; simp +contextual)⟩
  · rintro ⟨ha, hb⟩
    rw [BitVec.and_or_distrib_left, BitVec.and_or_distrib_left, ha, hb]

section Rows

variable {w m : Word}

/-- A row whose value has no bit outside its mask asks for agreement on the mask. -/
theorem inRow_iff {mask : Word} (h : m &&& mask = m) : InRow w (mask, m) ↔ w &&& mask = m &&& mask := by
  rw [h, InRow]

theorem inRow_opcode (h : m &&& 0xFC000000#32 = m) :
    InRow w (0xFC000000#32, m) ↔ fieldOpcode w = m.extractLsb' 26 6 := by
  rw [inRow_iff h, show 0xFC000000#32 = fieldMask 26 6 from rfl, and_fieldMask_eq_iff, fieldOpcode]

theorem inRow_funct (h : m &&& 0xFC00003F#32 = m) : InRow w (0xFC00003F#32, m) ↔
    fieldOpcode w = m.extractLsb' 26 6 ∧ fieldFunct w = m.extractLsb' 0 6 := by
  rw [inRow_iff h, show 0xFC00003F#32 = fieldMask 26 6 ||| fieldMask 0 6 from rfl, and_or_eq_iff,
    and_fieldMask_eq_iff, and_fieldMask_eq_iff, fieldOpcode, fieldFunct]

theorem inRow_rt (h : m &&& 0xFC1F0000#32 = m) : InRow w (0xFC1F0000#32, m) ↔
    fieldOpcode w = m.extractLsb' 26 6 ∧ fieldRt w = m.extractLsb' 16 5 := by
  rw [inRow_iff h, show 0xFC1F0000#32 = fieldMask 26 6 ||| fieldMask 16 5 from rfl, and_or_eq_iff,
    and_fieldMask_eq_iff, and_fieldMask_eq_iff, fieldOpcode, fieldRt]

theorem inRow_rs (h : m &&& 0xFFE00000#32 = m) : InRow w (0xFFE00000#32, m) ↔
    fieldOpcode w = m.extractLsb' 26 6 ∧ fieldRs w = m.extractLsb' 21 5 := by
  rw [inRow_iff h, show 0xFFE00000#32 = fieldMask 26 6 ||| fieldMask 21 5 from rfl, and_or_eq_iff,
    and_fieldMask_eq_iff, and_fieldMask_eq_iff, fieldOpcode, fieldRs]

theorem inRow_rs_funct (h : m &&& 0xFFE0003F#32 = m) : InRow w (0xFFE0003F#32, m) ↔
    fieldOpcode w = m.extractLsb' 26 6 ∧ fieldRs w = m.extractLsb' 21 5 ∧ fieldFunct w = m.extractLsb' 0 6 := by
  rw [inRow_iff h, show 0xFFE0003F#32 = fieldMask 26 6 ||| (fieldMask 21 5 ||| fieldMask 0 6) from rfl, and_or_eq_iff,
    and_or_eq_iff, and_fieldMask_eq_iff, and_fieldMask_eq_iff, and_fieldMask_eq_iff, fieldOpcode, fieldRs, fieldFunct]

theorem inRow_vector_funct (h : m &&& 0xFE00003F#32 = m) : InRow w (0xFE00003F#32, m) ↔
    fieldOpcode w = m.extractLsb' 26 6 ∧ fieldVectorBit w = m.extractLsb' 25 1 ∧ fieldFunct w = m.extractLsb' 0 6 := by
  rw [inRow_iff h, show 0xFE00003F#32 = fieldMask 26 6 ||| (fieldMask 25 1 ||| fieldMask 0 6) from rfl, and_or_eq_iff,
    and_or_eq_iff, and_fieldMask_eq_iff, and_fieldMask_eq_iff, and_fieldMask_eq_iff, fieldOpcode, fieldVectorBit, fieldFunct]

theorem inRow_rd (h : m &&& 0xFC00F800#32 = m) : InRow w (0xFC00F800#32, m) ↔
    fieldOpcode w = m.extractLsb' 26 6 ∧ fieldRd w = m.extractLsb' 11 5 := by
  rw [inRow_iff h, show 0xFC00F800#32 = fieldMask 26 6 ||| fieldMask 11 5 from rfl, and_or_eq_iff,
    and_fieldMask_eq_iff, and_fieldMask_eq_iff, fieldOpcode, fieldRd]

end Rows

/-! ### What each map of a decoder recognises -/

theorem decodeCpuSpecial_ok_iff (w : Word) : (∃ i, decodeCpuSpecial w = .ok i) ↔ fieldFunct w ∈
    [0x00#6, 0x02#6, 0x03#6, 0x04#6, 0x06#6, 0x07#6, 0x08#6, 0x09#6, 0x0C#6, 0x0D#6, 0x10#6, 0x11#6, 0x12#6, 0x13#6,
      0x18#6, 0x19#6, 0x1A#6, 0x1B#6, 0x20#6, 0x21#6, 0x22#6, 0x23#6, 0x24#6, 0x25#6, 0x26#6, 0x27#6, 0x2A#6, 0x2B#6] := by
  unfold decodeCpuSpecial
  split <;> simp_all

theorem decodeCpuRegimm_ok_iff (w : Word) :
    (∃ i, decodeCpuRegimm w = .ok i) ↔ fieldRt w ∈ [0x00#5, 0x01#5, 0x10#5, 0x11#5] := by
  unfold decodeCpuRegimm
  split <;> simp_all

theorem decodeCpuCop0_ok_iff (w : Word) : (∃ i, decodeCpuCop0 w = .ok i) ↔
    fieldRs w = 0x00#5 ∨ fieldRs w = 0x04#5 ∨ fieldRs w = 0x10#5 ∧ fieldFunct w = 0x18#6 := by
  unfold decodeCpuCop0
  split <;> try split
  all_goals simp_all

theorem decodeRspSpecial_ok_iff (w : Word) : (∃ i, decodeRspSpecial w = .ok i) ↔ fieldFunct w ∈
    [0x00#6, 0x02#6, 0x03#6, 0x04#6, 0x06#6, 0x07#6, 0x08#6, 0x09#6, 0x0D#6, 0x20#6, 0x21#6, 0x22#6, 0x23#6, 0x24#6,
      0x25#6, 0x26#6, 0x27#6, 0x2A#6, 0x2B#6] := by
  unfold decodeRspSpecial
  split <;> simp_all

theorem decodeRspRegimm_ok_iff (w : Word) :
    (∃ i, decodeRspRegimm w = .ok i) ↔ fieldRt w ∈ [0x00#5, 0x01#5, 0x10#5, 0x11#5] := by
  unfold decodeRspRegimm
  split <;> simp_all

theorem decodeRspVector_ok_iff (w : Word) : (∃ i, decodeRspVector w = .ok i) ↔
    fieldVectorBit w = 1#1 ∧ fieldFunct w ∈ [0x00#6, 0x04#6, 0x06#6, 0x07#6, 0x10#6, 0x11#6, 0x1D#6] := by
  unfold decodeRspVector
  split <;> simp_all

theorem decodeRspQuad_ok_iff (w : Word) (quad : Reg → Reg → BitVec 7 → Instr) :
    (∃ i, decodeRspQuad w quad = .ok i) ↔ fieldRd w = 0x04#5 := by
  unfold decodeRspQuad
  split <;> simp_all

/-! ### The two processors -/

theorem cpu_recognises_iff (w : Word) : (∃ i, decodeCpuWord w = .ok i) ↔ ∃ row ∈ cpuRows, InRow w row := by
  simp only [cpuRows, cpuRows1, cpuRows2, cpuRows3, cpuRows4, List.cons_append, List.nil_append, List.mem_cons,
    List.not_mem_nil, or_false, exists_eq_or_imp, exists_eq_left, inRow_opcode, inRow_funct, inRow_rt, inRow_rs,
    inRow_rs_funct, BitVec.reduceAnd, BitVec.reduceExtractLsb']
  unfold decodeCpuWord
  split
  case h_1 h => simp [h, decodeCpuSpecial_ok_iff]
  case h_2 h => simp [h, decodeCpuRegimm_ok_iff]
  case h_17 h => simp [h, decodeCpuCop0_ok_iff]
  all_goals simp_all

theorem rsp_recognises_iff (w : Word) : (∃ i, decodeRspWord w = .ok i) ↔ ∃ row ∈ rspRows, InRow w row := by
  simp only [rspRows, rspRows1, rspRows2, rspRows3, List.cons_append, List.nil_append, List.mem_cons, List.not_mem_nil,
    or_false, exists_eq_or_imp, exists_eq_left, inRow_opcode, inRow_funct, inRow_rt, inRow_vector_funct, inRow_rd,
    BitVec.reduceAnd, BitVec.reduceExtractLsb']
  unfold decodeRspWord
  split
  case h_1 h => simp [h, decodeRspSpecial_ok_iff]
  case h_2 h => simp [h, decodeRspRegimm_ok_iff]
  case h_17 h => simp [h, decodeRspVector_ok_iff, and_or_left]
  case h_26 h | h_27 h => simp [h, decodeRspQuad_ok_iff]
  all_goals simp_all

/-- Settles O9: both decoders ask for exactly the fields of their rows. -/
theorem recognisesExactlyTheTable : Obligations.RecognisesExactlyTheTable := ⟨cpu_recognises_iff, rsp_recognises_iff⟩

end Sys2Proof.Machine
end

section
/-! The machine's step (00_scope R5, R11): it runs the decoded instruction, always answers a next state, keeps the invariant
of 10_state R52 and changes no parameter; and what reset leaves (70_reset R500). -/

namespace Sys2Proof.Machine

/-! ### Reset -/

/-- The machine just constructed meets the invariant, if its parameters are admissible. -/
theorem inv_init {p : Params} (h : p.Ok) : (State.init p).Inv where
  params := h
  cpu := ⟨by simp [State.init, Cpu.reset], h.resetAligned, show 0#32 &&& 3#32 = 0#32 by decide,
    by simp [State.init, Cpu.reset, Cpu.resetCop0], by simp [State.init, Cpu.reset, Cpu.resetCop0]⟩
  rsp := ⟨by simp [State.init, Rsp.reset], show 0#12 &&& 3#12 = 0#12 by decide,
    show 0#12 &&& 3#12 = 0#12 by decide, ⟨Store.canonical_nil, Store.below_nil _⟩,
    ⟨Store.canonical_nil, Store.below_nil _⟩⟩
  rdp := ⟨⟨Store.canonical_nil, Store.below_nil _⟩, ⟨Nat.le_refl 1, show 1 ≤ 1024 by decide⟩,
    ⟨Nat.le_refl 1, show 1 ≤ 1024 by decide⟩, show 0#24 &&& 3#24 = 0#24 by decide⟩
  rdram := ⟨Store.canonical_nil, Store.below_nil _⟩
  cart _ hc := nomatch hc

theorem default_ok : Params.default.Ok := ⟨by decide, by decide, by decide, by decide, by decide⟩

/-- Settles O2: at reset every register is a constant of the parameters and every memory is empty. -/
theorem invAtReset : Obligations.InvAtReset := ⟨fun _ => inv_init, default_ok, inv_init default_ok⟩

/-- Reset keeps the memories and the Cartridge, and what it writes is what a machine just constructed holds. -/
theorem inv_resetPort {s : State} (h : s.Inv) : s.resetPort.Inv := by
  obtain ⟨hparams, hcpu, hrsp, hrdp, -, -⟩ := inv_init h.params
  exact ⟨hparams, ⟨hcpu.zero, hcpu.pcAligned, hcpu.targetAligned, hcpu.prid, hcpu.config⟩,
    ⟨hrsp.zero, hrsp.pcAligned, hrsp.targetAligned, h.rsp.imem, h.rsp.dmem⟩, hrdp, h.rdram, h.cart⟩

/-! ### The invariant at the ports -/

theorem nextInv_andThen {r : Result} {f : State → Result} (h : nextInv r) (hf : ∀ t : State, t.Inv → nextInv (f t)) :
    nextInv (andThen r f) := by
  cases r with
  | next t => exact hf t (h t rfl)
  | fault e => nomatch e
  | refused e => exact fun _ ht => nomatch ht

theorem nextInv_finish {r : Result} (h : nextInv r) : nextInv (finish r) :=
  nextInv_andThen h fun _ ht => nextInv_next (inv_setReply ht _)

theorem cpuStep_keeps_inv {s : State} (h : s.Inv) : nextInv (cpuStep s) := by
  refine nextInv_andThen ?_ fun _ ht => nextInv_next (inv_setReply (inv_poll ht) _)
  unfold cpuExecute
  split
  next i hd => exact exec_keeps_inv (wellFormed_of_cpu hd) h
  next => exact nextInv_next (inv_enterException h _)

theorem rspStepOnce_keeps_inv {s : State} (h : s.Inv) : nextInv (rspStepOnce s) := by
  unfold rspStepOnce rspExecute
  split
  next i hd => exact exec_keeps_inv (wellFormed_of_rsp hd) h
  next => exact nextInv_next (inv_rspRetire h)

theorem rspBurst_keeps_inv (n : Nat) {s : State} (h : s.Inv) : nextInv (rspBurst n s) := by
  induction n generalizing s with
  | zero => exact nextInv_next h
  | succ n ih =>
    unfold rspBurst
    split
    · exact nextInv_andThen (rspStepOnce_keeps_inv h) fun _ => ih
    · exact nextInv_next h

theorem drain_keeps_inv (fuel : Nat) {s : State} (h : s.Inv) : nextInv (drain fuel s) := by
  induction fuel generalizing s with
  | zero => exact nextInv_next h
  | succ fuel ih =>
    unfold drain
    split
    · exact nextInv_next h
    split
    · exact nextInv_next (inv_setQueue h _)
    split
    next i hd => exact nextInv_andThen (exec_keeps_inv (wellFormed_of_rdp hd) (inv_setQueue h _)) fun _ => ih
    next => exact ih (inv_setQueue h _)

/-- A built Cartridge's ROM is the image in another byte order, so it has its length, and its save buffer is empty. -/
theorem inv_of_constructCartridge {p : Params} {table : List (List Byte × SaveType)} {image : List Byte} {c : Cartridge}
    (h : constructCartridge p table image = .ok c) : c.Inv p := by
  unfold constructCartridge at h
  split at h
  · cases h
  next hlong =>
    split at h
    · cases h
    next rom hrom =>
      obtain ⟨hlength, -⟩ := (normaliseImage_eq_some_iff image rom).1 hrom
      split at h
      · cases h
      split at h
      · cases h
      injection h with h
      subst h
      exact ⟨by show 0x40 ≤ rom.length; omega, Store.canonical_nil, Store.below_nil _⟩

theorem inv_constructPort {s : State} (h : s.Inv) (image : List Byte) : (s.constructPort image).Inv := by
  unfold State.constructPort
  split
  next c hc =>
    exact ⟨h.params, h.cpu, h.rsp, h.rdp, h.rdram, fun d hd => by
      injection hd with hd
      exact hd ▸ inv_of_constructCartridge hc⟩
  · exact inv_setReply h _

/-- A bulk load puts in a buffer of exactly the size of the Cartridge's type. -/
theorem inv_saveLoadPort {s : State} (h : s.Inv) (bytes : List Byte) : (s.saveLoadPort bytes).Inv := by
  unfold State.saveLoadPort
  split
  next d hd =>
    obtain ⟨c, hc, hload⟩ := Option.bind_eq_some_iff.1 hd
    unfold Cartridge.saveLoad at hload
    split at hload
    next hlength =>
      injection hload with hload
      have hsize : bytes.length = s.params.saveSize c.saveType := by rw [hlength, State.saveSize, hc]
      have hbuffer := Store.ok_ofBytes 0 bytes
      rw [Nat.zero_add, hsize] at hbuffer
      exact ⟨h.params, h.cpu, h.rsp, h.rdp, h.rdram, fun e he => by
        injection he with he
        subst he hload
        exact ⟨(h.cart c hc).romSize, hbuffer⟩⟩
    · cases hload
  · exact inv_setReply h _

theorem inv_savePersistPort {s : State} (h : s.Inv) : s.savePersistPort.Inv := by
  unfold State.savePersistPort
  split <;> exact inv_setReply h _

theorem runCall_keeps_inv (c : PortCall) {s : State} (h : s.Inv) : nextInv (runCall c s) := by
  cases c with
  | reset => exact nextInv_finish (nextInv_next (inv_resetPort h))
  | cpuStep => exact cpuStep_keeps_inv h
  | irqSet line => exact nextInv_finish (nextInv_next (inv_irqSet h line))
  | irqClear line => exact nextInv_finish (nextInv_next (inv_irqClear h line))
  | executeFrame => exact nextInv_finish (rspBurst_keeps_inv _ h)
  | rspStep => exact nextInv_finish (rspStepOnce_keeps_inv h)
  | dmaToDmem dram dmem n => exact nextInv_finish (nextInv_next (inv_dmaToDmem h dram dmem n))
  | dmaFromDmem dram dmem n => exact nextInv_finish (nextInv_next (inv_dmaFromDmem h dram dmem n))
  | kick | halt => exact nextInv_finish (nextInv_next (inv_setRun h _))
  | enqueue w => exact nextInv_finish (nextInv_next (inv_enqueue h w))
  | processCommands => exact nextInv_finish (drain_keeps_inv _ h)
  | readFrame | saveRead => exact nextInv_next (inv_setReply h _)
  | construct image => exact nextInv_next (inv_constructPort h image)
  | setBank n => exact nextInv_finish (nextInv_next ⟨h.params, h.cpu, h.rsp, h.rdp, h.rdram, h.cart⟩)
  | saveWrite off n v => exact nextInv_finish (nextInv_next (inv_saveWrite h off n v))
  | saveLoad bytes => exact nextInv_next (inv_saveLoadPort h bytes)
  | savePersist => exact nextInv_next (inv_savePersistPort h)

theorem step_keeps_inv {s : State} (h : s.Inv) : nextInv (step s) := by
  unfold step
  split
  · exact cpuStep_keeps_inv h
  · exact runCall_keeps_inv _ (inv_calls h _)

/-! ### What every turn of a burst or of the drain keeps, the whole keeps -/

theorem rspBurst_keeps {α : Type} {f : State → α} (h : ∀ s, Keeps f s (rspStepOnce s)) (n : Nat) (s : State) :
    Keeps f s (rspBurst n s) := by
  induction n generalizing s with
  | zero => exact .next rfl
  | succ n ih => exact .ite ((h s).andThen ih) (.next rfl)

theorem drain_keeps {α : Type} {f : State → α} (hexec : ∀ (i : Instr) (s : State), i.block = .rdp → Keeps f s (exec i s))
    (hqueue : ∀ s q, f (s.setQueue q) = f s) (fuel : Nat) (s : State) : Keeps f s (drain fuel s) := by
  induction fuel generalizing s with
  | zero => exact .next rfl
  | succ fuel ih =>
    unfold drain
    split
    · exact .next rfl
    next w0 rest _ =>
      refine .ite (.next (hqueue s [])) ?_
      have hoff := hqueue s (rest.drop (s.params.rdpLen (fieldOpcode w0)))
      split
      next i hd =>
        obtain ⟨t, ht, hkeep⟩ := (hexec i (s.setQueue _) (block_of_rdp hd)).andThen ih
        exact ⟨t, ht, hkeep.trans hoff⟩
      next =>
        obtain ⟨t, ht, hkeep⟩ := ih (s.setQueue _)
        exact ⟨t, ht, hkeep.trans hoff⟩

/-! ### The parameters -/

theorem State.poll_params (s : State) : s.poll.params = s.params := by
  unfold State.poll
  split <;> rfl

theorem cpuStep_keeps_params (s : State) : Keeps State.params s (cpuStep s) := by
  refine .andThen ?_ fun t => .next t.poll_params
  unfold cpuExecute
  split
  next i _ => exact exec_params i s
  next => exact .next rfl

theorem rspStepOnce_keeps_params (s : State) : Keeps State.params s (rspStepOnce s) := by
  unfold rspStepOnce rspExecute
  split
  next i _ => exact exec_params i s
  next => exact .next rfl

theorem State.constructPort_params (s : State) (image : List Byte) : (s.constructPort image).params = s.params := by
  unfold State.constructPort
  split <;> rfl

theorem State.saveLoadPort_params (s : State) (bytes : List Byte) : (s.saveLoadPort bytes).params = s.params := by
  unfold State.saveLoadPort
  split <;> rfl

theorem State.savePersistPort_params (s : State) : s.savePersistPort.params = s.params := by
  unfold State.savePersistPort
  split <;> rfl

/-- Every port call completes and changes no parameter. -/
theorem runCall_keeps_params (c : PortCall) (s : State) : Keeps State.params s (runCall c s) := by
  have hfinish : ∀ {r}, Keeps State.params s r → Keeps State.params s (finish r) := fun h => h.andThen fun _ => .next rfl
  cases c with
  | cpuStep => exact cpuStep_keeps_params s
  | executeFrame => exact hfinish (rspBurst_keeps rspStepOnce_keeps_params _ s)
  | rspStep => exact hfinish (rspStepOnce_keeps_params s)
  | processCommands => exact hfinish (drain_keeps (fun i s _ => exec_params i s) (fun _ _ => rfl) _ s)
  | construct image => exact .next (s.constructPort_params image)
  | saveLoad bytes => exact .next (s.saveLoadPort_params bytes)
  | savePersist => exact .next s.savePersistPort_params
  | reset | irqSet | irqClear | dmaToDmem | dmaFromDmem | kick | halt | enqueue | readFrame | setBank | saveRead
  | saveWrite => exact .next rfl

theorem step_keeps_params (s : State) : Keeps State.params s (step s) := by
  unfold step
  split
  · exact cpuStep_keeps_params s
  · exact runCall_keeps_params _ _

/-- Settles O3: every port keeps the invariant, since every instruction a decoder answers is well-formed and keeps it. -/
theorem stepKeepsInv : Obligations.StepKeepsInv := by
  refine ⟨fun s t h => step_keeps_inv h t, fun s t h => ?_⟩
  obtain ⟨u, hu, hparams⟩ := step_keeps_params s
  rw [hu] at h
  injection h with h
  exact h ▸ hparams

/-- Settles O4: every port call completes. -/
theorem stepIsTotal : Obligations.StepIsTotal := fun s =>
  let ⟨t, ht, _⟩ := step_keeps_params s
  ⟨t, ht⟩

end Sys2Proof.Machine
end

section
/-! What reset leaves (70_reset R500), and which decoded instruction a step runs (40 R180, 44 R320, 45 R401). -/

namespace Sys2Proof.Machine

/-! ### Reset -/

theorem regRead_replicate_zero {w : Nat} (r : Reg) : regRead (Vector.replicate 32 0#w) r = 0#w := by simp [regRead]

/-- The COP0 slots of the reset table: Status is 12, PRId 15 and Config 16 (10_state R54). -/
theorem getC0_resetPort (s : State) (r : Reg) : (s.resetPort.setReply .done).getC0 r =
    if r = 16#5 then s.params.configValue else if r = 15#5 then s.params.pridValue
    else if r = 12#5 then s.params.resetStatus else 0#32 := by
  show (Cpu.resetCop0 s.params)[r.toNat]'r.isLt = _
  simp only [Cpu.resetCop0, Vector.getElem_set, Vector.getElem_replicate, ← BitVec.toNat_inj, eq_comm]
  rfl

theorem pixel_of_fb_eq_nil {s : State} (h : s.rdp.fb = []) (x y : Nat) : s.pixel x y = 0#32 := by
  unfold State.pixel
  rw [h]
  split <;> rfl

/-- Settles O1: what the reset port writes are the constants of the reset table. -/
theorem resetGivesDefaults : Obligations.ResetGivesDefaults := by
  refine ⟨fun s => ⟨s.resetPort.setReply .done, rfl, regRead_replicate_zero, rfl, rfl, rfl, rfl, rfl, rfl, rfl,
    getC0_resetPort s 12#5, getC0_resetPort s 15#5, getC0_resetPort s 16#5, fun r h12 h15 h16 => ?_, rfl, rfl, rfl, rfl, rfl,
    regRead_replicate_zero, rfl, rfl, rfl, fun r k => ?_, rfl, rfl, rfl, rfl, rfl, rfl, pixel_of_fb_eq_nil rfl, rfl⟩,
    fun p => ⟨_, rfl, rfl, rfl, rfl, rfl, rfl⟩, rfl, rfl, rfl, rfl, rfl⟩
  · rw [getC0_resetPort, if_neg h16, if_neg h15, if_neg h12]
  · simp [State.getV, State.setReply, State.resetPort, Rsp.reset]

/-! ### The step -/

/-- The RSP fetches the word of IMEM that its pc lies in (44 R323). -/
theorem imemRead_toNat (s : State) (a : Local) :
    (s.imemRead a).toNat = bigEndian ((List.range 4).map fun k => Store.get s.rsp.imem (a.toNat / 4 * 4 + k)) := by
  unfold State.imemRead
  rw [joinBytes_toNat _ 4 (Nat.le_refl 4) |>.1, mask_low_two a 0xFFC#12 (by decide)]

theorem step_of_calls_nil {s : State} (h : s.calls = []) : step s = cpuStep s := by
  unfold step
  rw [h]

theorem step_of_calls_cons {s : State} {c : PortCall} {rest : List PortCall} (h : s.calls = c :: rest) :
    step s = runCall c { s with calls := rest } := by
  unfold step
  rw [h]

theorem cpuExecute_of_decode {w : Word} {i : Instr} (h : decodeCpuWord w = .ok i) (s : State) :
    cpuExecute w s = exec i s := by
  unfold cpuExecute
  rw [h]

theorem rspExecute_of_decode {w : Word} {i : Instr} (h : decodeRspWord w = .ok i) (s : State) :
    rspExecute w s = exec i s := by
  unfold rspExecute
  rw [h]

theorem cpuStep_of_decode {s : State} {i : Instr} (h : decodeCpuWord s.fetch = .ok i) :
    cpuStep s = andThen (exec i s) fun t => .next (t.poll.setReply (.cycles (Config.cycleCost s.fetch))) := by
  rw [cpuStep, cpuExecute_of_decode h]

/-- A recognised command at the front of the queue runs with its words off the queue (45 R401). -/
theorem processCommands_of_decode {s : State} {i : Instr} {w0 : Word} {ws rest : List Word}
    (hqueue : s.rdp.queue = w0 :: (ws ++ rest)) (hlength : ws.length = s.params.rdpLen (fieldOpcode w0))
    (hd : decodeRdpCommand w0 ws = .ok i) : processCommands s = andThen (exec i (s.setQueue rest)) processCommands := by
  rw [processCommands_cons s w0 ws rest hlength hqueue, hd]

/-- An unknown opcode is skipped with the words of its length (45 R404). -/
theorem processCommands_of_error {s : State} {e : Reject} {w0 : Word} {ws rest : List Word}
    (hqueue : s.rdp.queue = w0 :: (ws ++ rest)) (hlength : ws.length = s.params.rdpLen (fieldOpcode w0))
    (hd : decodeRdpCommand w0 ws = .error e) : processCommands s = processCommands (s.setQueue rest) := by
  rw [processCommands_cons s w0 ws rest hlength hqueue, hd]

/-- Settles O5: the step's equations, one for each block that fetches. -/
theorem stepRunsDecodedInstruction : Obligations.StepRunsDecodedInstruction := by
  refine ⟨fun s c rest h => step_of_calls_cons h, fun s a => ⟨rfl, imemRead_toNat s a⟩,
    fun s i h hd => (step_of_calls_nil h).trans (cpuStep_of_decode hd),
    fun s i rest h hd => (step_of_calls_cons h).trans (cpuStep_of_decode (s := { s with calls := rest }) hd),
    fun s i rest h hd => (step_of_calls_cons h).trans (congrArg finish (rspExecute_of_decode hd _)),
    fun s i rest w0 ws queue h hqueue hlength hd => ?_⟩
  have hdrain := processCommands_of_decode (s := { s with calls := rest }) hqueue hlength hd
  obtain ⟨t, ht⟩ := exec_next i (State.setQueue { s with calls := rest } queue)
  rw [ht] at hdrain
  rw [step_of_calls_cons h, ht]
  exact congrArg finish hdrain

end Sys2Proof.Machine
end

section
/-! The CPU's arithmetic (40_cpu_step_and_alu sections 1 to 6): the words of its instructions, and their results as exact
integers narrowed once. -/

namespace Sys2Proof.Machine

/-! ### Exact results narrowed -/

theorem wordResult_eq (n : Int) : wordResult n = (BitVec.ofInt 32 n).signExtend 64 := by
  rw [← wordResult_toInt, BitVec.toInt_ofInt]
  simp [wordResult]

/-- A result that fits a word is written as it is. -/
theorem wordResult_of_fits {n : Int} (h : FitsWord n) : wordResult n = BitVec.ofInt 64 n := by
  rw [wordResult, Int.bmod_eq_of_le] <;> omega

theorem ofInt_add_toInt (a b : Word) : BitVec.ofInt 32 (a.toInt + b.toInt) = a + b := by simp [BitVec.ofInt_add]

theorem ofInt_sub_toInt (a b : Word) : BitVec.ofInt 32 (a.toInt - b.toInt) = a - b := by
  rw [sub_eq_add_neg, BitVec.ofInt_add, BitVec.ofInt_neg, BitVec.ofInt_toInt, BitVec.ofInt_toInt, BitVec.sub_eq_add_neg]

theorem ofInt_add_imm (a : Word) (imm : BitVec 16) : BitVec.ofInt 32 (a.toInt + imm.toInt) = a + immWord imm := by
  rw [BitVec.ofInt_add, BitVec.ofInt_toInt]
  rfl

/-- Everything a word operation does, from its exact result. -/
theorem writesX_wordResult {i : Instr} {s : State} {rd : Reg} {v : Word} {n : Int} (hv : BitVec.ofInt 32 n = v)
    (h : exec i s = .next (s.setW rd v).retire) : WritesX i s rd (wordResult n) := by
  subst hv
  rw [wordResult_eq]
  exact writesX_of_exec h

/-! ### Exception entry (60 R460, R461, R463) -/

theorem causeEntry_getLsbD_31 (old : Word) (inSlot : Bool) (c : ExcCode) :
    (causeEntry old inSlot c).getLsbD 31 = inSlot := by
  cases inSlot <;> simp [causeEntry]

theorem causeEntry_excCode (old : Word) (inSlot : Bool) (c : ExcCode) :
    (causeEntry old inSlot c).extractLsb' 2 5 = excNumber c := by
  have hcode : ((excNumber c).setWidth 32 <<< 2).extractLsb' 2 5 = excNumber c := by cases c <;> rfl
  have hslot : (if inSlot then 0x80000000#32 else 0#32).extractLsb' 2 5 = 0#5 := by cases inSlot <;> rfl
  have hmask : (0x7FFFFF83#32).extractLsb' 2 5 = 0#5 := rfl
  rw [causeEntry, BitVec.extractLsb'_or, BitVec.extractLsb'_or, BitVec.extractLsb'_and, hcode, hslot, hmask]
  simp

theorem causeEntry_rest (old : Word) (inSlot : Bool) (c : ExcCode) :
    causeEntry old inSlot c &&& 0x7FFFFF83#32 = old &&& 0x7FFFFF83#32 := by
  have hcode : 0x7FFFFF83#32 &&& (excNumber c).setWidth 32 <<< 2 = 0#32 := by cases c <;> rfl
  have hslot : 0x7FFFFF83#32 &&& (if inSlot then 0x80000000#32 else 0#32) = 0#32 := by cases inSlot <;> rfl
  rw [causeEntry, BitVec.and_comm, BitVec.and_or_distrib_left, BitVec.and_or_distrib_left, hcode, hslot, BitVec.and_comm,
    BitVec.and_assoc, BitVec.and_self, BitVec.or_zero, BitVec.or_zero]

theorem enteredException_enterException (s : State) (c : ExcCode) :
    EnteredException s (s.enterException c) (excNumber c) where
  epc := s.enterException_epc c
  bd := by rw [s.enterException_cause c, causeEntry_getLsbD_31]
  excCode := by rw [s.enterException_cause c, causeEntry_excCode]
  causeRest := by rw [s.enterException_cause c, causeEntry_rest, State.cause]
  el := by simp [s.enterException_status c, statusSetEl]
  statusRest := by
    rw [s.enterException_status c, statusSetEl, BitVec.and_comm, BitVec.and_or_distrib_left, BitVec.and_comm]
    simp [State.status]
  slots r h12 h13 h14 := s.enterException_slot c h12 h13 h14
  delayFlag := rfl
  pc := rfl
  regs _ := rfl
  hi := rfl
  lo := rfl
  llFlag := rfl
  irq := rfl
  fpr := rfl
  outside := SameOutsideCpu.of_eq rfl rfl rfl rfl rfl rfl rfl rfl

theorem raises_of_exec {i : Instr} {s : State} (c : ExcCode) (h : exec i s = .next (s.enterException c)) :
    Raises i s (excNumber c) :=
  ⟨_, h, enteredException_enterException s c⟩

/-! ### Trapping and wrapping arithmetic -/

theorem addOverflow_iff_signs (a b : Word) : addOverflow a b = true ↔ a.msb = b.msb ∧ (a + b).msb ≠ a.msb := by
  simp [addOverflow]

theorem subOverflow_iff_signs (a b : Word) : subOverflow a b = true ↔ a.msb ≠ b.msb ∧ (a - b).msb ≠ a.msb := by
  simp [subOverflow]

theorem addOverflow_iff (a b : Word) : addOverflow a b = true ↔ ¬FitsWord (a.toInt + b.toInt) := by
  have h : addOverflow a b = BitVec.saddOverflow a b := by rw [BitVec.saddOverflow_eq]; rfl
  rw [h, BitVec.saddOverflow]
  simp
  omega

theorem subOverflow_iff (a b : Word) : subOverflow a b = true ↔ ¬FitsWord (a.toInt - b.toInt) := by
  have h : subOverflow a b = BitVec.ssubOverflow a b := by
    rw [BitVec.ssubOverflow_eq, subOverflow]
    cases a.msb <;> cases b.msb <;> cases (a - b).msb <;> rfl
  rw [h, BitVec.ssubOverflow]
  simp
  omega

section Trapping

variable (s : State) (rd rs rt : Reg) (imm : BitVec 16)

theorem exec_add_of_overflow (h : addOverflow (s.getW rs) (s.getW rt) = true) : Raises (.add rd rs rt) s 12#5 :=
  raises_of_exec .ov (if_pos h)

theorem exec_add_of_not_overflow (h : ¬addOverflow (s.getW rs) (s.getW rt) = true) :
    WritesX (.add rd rs rt) s rd (wordResult ((s.getW rs).toInt + (s.getW rt).toInt)) :=
  writesX_wordResult (ofInt_add_toInt _ _) (if_neg h)

theorem exec_sub_of_overflow (h : subOverflow (s.getW rs) (s.getW rt) = true) : Raises (.sub rd rs rt) s 12#5 :=
  raises_of_exec .ov (if_pos h)

theorem exec_sub_of_not_overflow (h : ¬subOverflow (s.getW rs) (s.getW rt) = true) :
    WritesX (.sub rd rs rt) s rd (wordResult ((s.getW rs).toInt - (s.getW rt).toInt)) :=
  writesX_wordResult (ofInt_sub_toInt _ _) (if_neg h)

theorem exec_addi_of_overflow (h : addOverflow (s.getW rs) (immWord imm) = true) : Raises (.addi rt rs imm) s 12#5 :=
  raises_of_exec .ov (if_pos h)

theorem exec_addi_of_not_overflow (h : ¬addOverflow (s.getW rs) (immWord imm) = true) :
    WritesX (.addi rt rs imm) s rt (wordResult ((s.getW rs).toInt + imm.toInt)) :=
  writesX_wordResult (ofInt_add_imm _ _) (if_neg h)

end Trapping

/-- The sum with an immediate overflows exactly when the exact sum does not fit. -/
theorem addOverflow_imm_iff (a : Word) (imm : BitVec 16) :
    addOverflow a (immWord imm) = true ↔ ¬FitsWord (a.toInt + imm.toInt) := by
  rw [addOverflow_iff, immWord, BitVec.toInt_signExtend_of_le (by decide)]

/-- Settles O11: the sign conditions are the library's overflow conditions, which are about the exact results. -/
theorem overflowExactlyOutsideRange : Obligations.OverflowExactlyOutsideRange :=
  ⟨fun a b => ⟨addOverflow_iff_signs a b, subOverflow_iff_signs a b, addOverflow_iff a b, subOverflow_iff a b⟩,
    fun s rd rs rt imm => ⟨exec_add_of_overflow s rd rs rt,
      fun h => ⟨_, exec_add_of_not_overflow s rd rs rt (Bool.eq_false_iff.1 h)⟩,
      exec_addi_of_overflow s rs rt imm, fun h => ⟨_, exec_addi_of_not_overflow s rs rt imm (Bool.eq_false_iff.1 h)⟩,
      exec_sub_of_overflow s rd rs rt, fun h => ⟨_, exec_sub_of_not_overflow s rd rs rt (Bool.eq_false_iff.1 h)⟩⟩⟩

/-- Settles O12: a result that fits is no overflow and is written exactly. -/
theorem trappingArithmetic : Obligations.TrappingArithmetic := by
  refine ⟨by simp +contextual [CpuSpecial, CpuPrimary, decodeCpuWord, decodeCpuSpecial], fun s rd rs rt imm =>
    ⟨fun h => ?_, fun h => exec_add_of_overflow s rd rs rt ((addOverflow_iff _ _).2 h), fun h => ?_,
      fun h => exec_sub_of_overflow s rd rs rt ((subOverflow_iff _ _).2 h), fun h => ?_,
      fun h => exec_addi_of_overflow s rs rt imm ((addOverflow_imm_iff _ _).2 h)⟩⟩
  · rw [← wordResult_of_fits h]
    exact exec_add_of_not_overflow s rd rs rt fun ho => (addOverflow_iff _ _).1 ho h
  · rw [← wordResult_of_fits h]
    exact exec_sub_of_not_overflow s rd rs rt fun ho => (subOverflow_iff _ _).1 ho h
  · rw [← wordResult_of_fits h]
    exact exec_addi_of_not_overflow s rs rt imm fun ho => (addOverflow_imm_iff _ _).1 ho h

/-- Settles O13: sums and differences of words are those of their integers, modulo 2^32. -/
theorem wrappingArithmetic : Obligations.WrappingArithmetic :=
  ⟨by simp +contextual [CpuSpecial, CpuPrimary, decodeCpuWord, decodeCpuSpecial], fun _ _ _ _ _ =>
    ⟨writesX_wordResult (ofInt_add_toInt _ _) rfl, writesX_wordResult (ofInt_sub_toInt _ _) rfl,
      writesX_wordResult (ofInt_add_imm _ _) rfl⟩⟩

/-! ### Logic -/

theorem immZero_eq (imm : BitVec 16) : BitVec.ofNat 64 imm.toNat = immZero imm := BitVec.ofNat_toNat _ _

theorem ofNat_immUpper (imm : BitVec 16) : BitVec.ofNat 32 (imm.toNat * 65536) = immUpper imm := by
  apply BitVec.eq_of_toNat_eq
  simp [immUpper, Nat.shiftLeft_eq]

theorem ofInt_immUpper (imm : BitVec 16) : BitVec.ofInt 32 (imm.toNat * 65536) = immUpper imm := by
  rw [← ofNat_immUpper, ← BitVec.ofInt_natCast, Nat.cast_mul]
  rfl

/-- Settles O14: the immediates are zero-extended by their number. -/
theorem logicalInstructions : Obligations.LogicalInstructions := by
  refine ⟨by simp +contextual [CpuSpecial, CpuPrimary, decodeCpuWord, decodeCpuSpecial], fun s rd rs rt imm => ?_⟩
  rw [immZero_eq]
  exact ⟨writesX_of_exec rfl, writesX_of_exec rfl, writesX_of_exec rfl, writesX_of_exec rfl, writesX_of_exec rfl,
    writesX_of_exec rfl, writesX_of_exec rfl, writesX_wordResult (ofInt_immUpper imm) rfl⟩

/-! ### Shifts -/

theorem ofNat_shiftLeft (a : Word) (n : Nat) : BitVec.ofNat 32 (a.toNat * 2 ^ n) = a <<< n := by
  apply BitVec.eq_of_toNat_eq
  rw [BitVec.toNat_shiftLeft, Nat.shiftLeft_eq, BitVec.toNat_ofNat]

theorem ofNat_ushiftRight (a : Word) (n : Nat) : BitVec.ofNat 32 (a.toNat / 2 ^ n) = a >>> n := by
  apply BitVec.eq_of_toNat_eq
  rw [BitVec.toNat_ofNat, BitVec.toNat_ushiftRight, Nat.shiftRight_eq_div_pow,
    Nat.mod_eq_of_lt ((Nat.div_le_self _ _).trans_lt a.isLt)]

theorem ofInt_shiftLeft (a : Word) (n : Nat) : BitVec.ofInt 32 (a.toNat * 2 ^ n) = a <<< n := by
  rw [← ofNat_shiftLeft, ← BitVec.ofInt_natCast]
  push_cast
  rfl

theorem ofInt_ushiftRight (a : Word) (n : Nat) : BitVec.ofInt 32 (a.toNat / 2 ^ n) = a >>> n := by
  rw [← ofNat_ushiftRight, ← BitVec.ofInt_natCast]
  push_cast
  rfl

theorem ofInt_sshiftRight (a : Word) (n : Nat) : BitVec.ofInt 32 (a.toInt / 2 ^ n) = a.sshiftRight n := by
  rw [BitVec.sshiftRight, Int.shiftRight_eq_div_pow]
  push_cast
  rfl

/-- A variable count is the register's number modulo 32 (40 R203). -/
theorem shiftCount_eq (s : State) (rs : Reg) : s.shiftCount rs = (s.getX rs).toNat % 32 := BitVec.toNat_setWidth 5 _

/-- Settles O15: a shift is a product or quotient by a power of two. -/
theorem shiftInstructions : Obligations.ShiftInstructions := by
  refine ⟨by simp +contextual [CpuSpecial, decodeCpuWord, decodeCpuSpecial], fun s rd rt rs shamt => ?_⟩
  rw [← shiftCount_eq]
  exact ⟨writesX_wordResult (ofInt_shiftLeft _ _) rfl, writesX_wordResult (ofInt_ushiftRight _ _) rfl,
    writesX_wordResult (ofInt_sshiftRight _ _) rfl, writesX_wordResult (ofInt_shiftLeft _ _) rfl,
    writesX_wordResult (ofInt_ushiftRight _ _) rfl, writesX_wordResult (ofInt_sshiftRight _ _) rfl⟩

/-! ### Comparisons -/

theorem boolWord_eq {w : Nat} {c : Bool} {P : Prop} [Decidable P] (h : c = true ↔ P) :
    boolWord w c = if P then 1#w else 0#w :=
  if_congr h rfl rfl

theorem slt_iff {w : Nat} (a b : BitVec w) : a.slt b = true ↔ a.toInt < b.toInt := decide_eq_true_iff

theorem ult_iff {w : Nat} (a b : BitVec w) : a.ult b = true ↔ a.toNat < b.toNat := decide_eq_true_iff

theorem immSigned_toInt (imm : BitVec 16) : (immSigned imm).toInt = imm.toInt := BitVec.toInt_signExtend_of_le (by decide)

theorem immSigned_toNat (imm : BitVec 16) : ((immSigned imm).toNat : Int) = imm.toInt % 2 ^ 64 := by
  rw [← immSigned_toInt, BitVec.toInt_eq_toNat_bmod, show (2 : Int) ^ 64 = (2 ^ 64 : Nat) from rfl, Int.bmod_emod]
  have := (immSigned imm).isLt
  omega

/-- Settles O16: the comparisons are those of the registers' integers and numbers. -/
theorem compareInstructions : Obligations.CompareInstructions := by
  refine ⟨by simp +contextual [CpuSpecial, CpuPrimary, decodeCpuWord, decodeCpuSpecial], fun s rd rs rt imm => ?_⟩
  rw [← immSigned_toNat, ← immSigned_toInt]
  simp only [Nat.cast_lt, ← boolWord_eq (slt_iff _ _), ← boolWord_eq (ult_iff _ _)]
  exact ⟨writesX_of_exec rfl, writesX_of_exec rfl, writesX_of_exec rfl, writesX_of_exec rfl⟩

/-! ### HI, LO, multiply and divide -/

/-- Settles O17: the moves write what they read. -/
theorem hiLoMoves : Obligations.HiLoMoves :=
  ⟨by simp +contextual [CpuSpecial, decodeCpuWord, decodeCpuSpecial], fun _ _ =>
    ⟨writesX_of_exec rfl, writesX_of_exec rfl, writesHiLo_of_exec rfl, writesHiLo_of_exec rfl⟩⟩

theorem low_half_eq (p : Int) : ((BitVec.ofInt 64 p).extractLsb' 0 32).signExtend 64 = wordResult p := by
  rw [wordResult_eq]
  congr 1
  apply BitVec.eq_of_toNat_eq
  simp [BitVec.toNat_ofInt]
  omega

theorem high_half_eq (p : Int) : ((BitVec.ofInt 64 p).extractLsb' 32 32).signExtend 64 = wordResult (p / 2 ^ 32) := by
  rw [wordResult_eq]
  congr 1
  apply BitVec.eq_of_toNat_eq
  simp [BitVec.toNat_ofInt, Nat.shiftRight_eq_div_pow]
  omega

theorem writesHiLo_product {i : Instr} {s : State} {p : Int} (h : exec i s = .next (s.setProduct (BitVec.ofInt 64 p)).retire) :
    WritesHiLo i s (wordResult (p / 2 ^ 32)) (wordResult p) := by
  rw [← high_half_eq, ← low_half_eq p]
  exact writesHiLo_of_exec h

/-- Settles O18: the two halves of a 64-bit product are its quotient and remainder by 2^32. -/
theorem multiplyIsExact : Obligations.MultiplyIsExact := by
  refine ⟨by simp +contextual [CpuSpecial, decodeCpuWord, decodeCpuSpecial], fun s rs rt =>
    ⟨writesHiLo_product rfl, ?_⟩⟩
  push_cast
  refine writesHiLo_product ?_
  rw [← Nat.cast_mul, BitVec.ofInt_natCast]
  rfl

theorem exec_div (s : State) (rs rt : Reg) : WritesHiLo (.div rs rt) s
    (divHi s.params.divCorner (s.getW rs) (s.getW rt)) (divLo s.params.divCorner (s.getW rs) (s.getW rt)) :=
  writesHiLo_of_exec rfl

theorem exec_divu (s : State) (rs rt : Reg) : WritesHiLo (.divu rs rt) s
    (divuHi s.params.divCorner (s.getW rs) (s.getW rt)) (divuLo s.params.divCorner (s.getW rs) (s.getW rt)) :=
  writesHiLo_of_exec rfl

/-- The overflowing division, in words. -/
theorem overflowingDivision_iff (a b : Word) :
    (a = 0x80000000#32 ∧ b = 0xFFFFFFFF#32) ↔ (a.toInt = -2 ^ 31 ∧ b.toInt = -1) := by
  rw [← BitVec.toInt_inj, ← BitVec.toInt_inj]
  rfl

theorem divLo_of_regular {c : DivCorner} {a b : Word} (hb : b ≠ 0#32) (h : ¬(a.toInt = -2 ^ 31 ∧ b.toInt = -1)) :
    divLo c a b = wordResult (a.toInt.tdiv b.toInt) := by
  rw [divLo, if_neg hb, if_neg (mt (overflowingDivision_iff a b).1 h), wordResult_eq]

theorem divHi_of_regular {c : DivCorner} {a b : Word} (hb : b ≠ 0#32) (h : ¬(a.toInt = -2 ^ 31 ∧ b.toInt = -1)) :
    divHi c a b = wordResult (a.toInt.tmod b.toInt) := by
  rw [divHi, if_neg hb, if_neg (mt (overflowingDivision_iff a b).1 h), wordResult_eq, Int.tmod_def, Int.mul_comm]

/-- A remainder of the truncating division is 0 or has the dividend's sign. -/
theorem tmod_sign (a b : Int) : a.tmod b = 0 ∨ (0 < a.tmod b ∧ 0 < a) ∨ (a.tmod b < 0 ∧ a < 0) := by
  have h := Int.sign_tmod a b
  split at h
  · exact .inl (Int.sign_eq_zero_iff_zero.1 h)
  · rcases lt_trichotomy a 0 with ha | ha | ha
    · rw [Int.sign_eq_neg_one_of_neg ha, Int.sign_eq_neg_one_iff_neg] at h
      exact .inr (.inr ⟨h, ha⟩)
    · exact .inl (by rw [ha, Int.zero_tmod])
    · rw [Int.sign_eq_one_of_pos ha, Int.sign_eq_one_iff_pos] at h
      exact .inr (.inl ⟨h, ha⟩)

theorem abs_tmod_lt {a b : Int} (hb : b ≠ 0) : |a.tmod b| < |b| := by
  rw [← Int.natCast_natAbs, ← Int.natCast_natAbs, Int.natAbs_tmod]
  exact_mod_cast Nat.mod_lt _ (Int.natAbs_pos.2 hb)

/-- Settles O19: the quotient and remainder are the library's, rounded toward zero. -/
theorem divideTruncates : Obligations.DivideTruncates := by
  refine ⟨by simp +contextual [CpuSpecial, decodeCpuWord, decodeCpuSpecial], fun s rs rt hb => ⟨fun h => ?_, ?_⟩⟩
  · have hb' : (s.getW rt).toInt ≠ 0 := fun e => hb (BitVec.toInt_inj.1 e)
    refine ⟨_, _, (Int.tdiv_mul_add_tmod _ _).symm, abs_tmod_lt hb', tmod_sign _ _, ?_⟩
    rw [← divHi_of_regular (c := s.params.divCorner) hb h, ← divLo_of_regular (c := s.params.divCorner) hb h]
    exact exec_div s rs rt
  · have hdiv := exec_divu s rs rt
    rw [divuHi, divuLo, if_neg hb, if_neg hb, Nat.mul_comm, ← Nat.mod_eq_sub_mul_div] at hdiv
    rw [wordResult_eq, wordResult_eq, BitVec.ofInt_natCast, BitVec.ofInt_natCast]
    exact hdiv

/-- Settles O20: at a corner both results are DIV_CORNER's. -/
theorem divideCorners : Obligations.DivideCorners := by
  refine ⟨fun s rs rt c hc => ⟨fun hb => ⟨?_, ?_⟩, fun ha hb => ?_⟩, fun a => ⟨?_, ?_, rfl, ?_, rfl, rfl⟩, rfl⟩
  · have h := exec_div s rs rt
    rwa [divHi, divLo, if_pos hb, if_pos hb, ← hc] at h
  · have h := exec_divu s rs rt
    rwa [divuHi, divuLo, if_pos hb, if_pos hb, ← hc] at h
  · have h := exec_div s rs rt
    have hzero : s.getW rt ≠ 0#32 := by rw [hb]; decide
    rwa [divHi, divLo, if_neg hzero, if_neg hzero, if_pos ⟨ha, hb⟩, if_pos ⟨ha, hb⟩, ← hc] at h
  · show (if (0#32).sle a then (0xFFFFFFFF#32).signExtend 64 else (1#32).signExtend 64) = _
    exact if_congr decide_eq_true_iff rfl rfl
  · exact (wordResult_toInt a).symm
  · exact (wordResult_toInt a).symm

/-! ### Canonical registers (40 R187) -/

theorem isCanonical_signExtend {n : Nat} (hpos : 0 < n) (hn : n ≤ 32) (v : BitVec n) : IsCanonical (v.signExtend 64) := by
  have hmsb : ∀ k, n - 1 ≤ k → k < 64 → (v.signExtend 64).getLsbD k = v.msb := fun k h1 h2 => by
    rw [BitVec.getLsbD_signExtend, decide_eq_true h2, Bool.true_and]
    split
    · rw [show k = n - 1 by omega, BitVec.msb_eq_getLsbD_last]
    · rfl
  intro k h1 h2
  rw [hmsb k (by omega) h2, hmsb 31 (by omega) (by omega)]

theorem isCanonical_setWidth {n : Nat} (hn : n ≤ 31) (v : BitVec n) : IsCanonical (v.setWidth 64) := by
  have hzero : ∀ k, 31 ≤ k → (v.setWidth 64).getLsbD k = false := fun k h => by
    rw [BitVec.getLsbD_setWidth, BitVec.getLsbD_of_ge v k (by omega), Bool.and_false]
  intro k h1 h2
  rw [hzero k (by omega), hzero 31 (by omega)]

theorem isCanonical_boolWord (c : Bool) : IsCanonical (boolWord 64 c) := by
  have h : boolWord 64 c = (BitVec.ofBool c).setWidth 64 := by cases c <;> rfl
  exact h ▸ isCanonical_setWidth (by decide) _

section Bitwise

variable {a b : DWord}

theorem IsCanonical.and (ha : IsCanonical a) (hb : IsCanonical b) : IsCanonical (a &&& b) := fun k h1 h2 => by
  rw [BitVec.getLsbD_and, BitVec.getLsbD_and, ha k h1 h2, hb k h1 h2]

theorem IsCanonical.or (ha : IsCanonical a) (hb : IsCanonical b) : IsCanonical (a ||| b) := fun k h1 h2 => by
  rw [BitVec.getLsbD_or, BitVec.getLsbD_or, ha k h1 h2, hb k h1 h2]

theorem IsCanonical.xor (ha : IsCanonical a) (hb : IsCanonical b) : IsCanonical (a ^^^ b) := fun k h1 h2 => by
  rw [BitVec.getLsbD_xor, BitVec.getLsbD_xor, ha k h1 h2, hb k h1 h2]

theorem IsCanonical.not (ha : IsCanonical a) : IsCanonical (~~~a) := fun k h1 h2 => by
  rw [BitVec.getLsbD_not, BitVec.getLsbD_not, ha k h1 h2, decide_eq_true h2, decide_eq_true (by omega)]

end Bitwise

theorem isCanonical_word (v : Word) : IsCanonical (v.signExtend 64) := isCanonical_signExtend (by decide) (by decide) v

theorem isCanonical_immZero (imm : BitVec 16) : IsCanonical (immZero imm) := isCanonical_setWidth (by decide) imm

theorem isCanonical_corner (c : CornerValue) (a : Word) : IsCanonical (c.eval a) := by
  cases c with
  | const v => exact isCanonical_word v
  | dividend => exact isCanonical_word a
  | bySign v w =>
    unfold CornerValue.eval
    dsimp only
    split <;> exact isCanonical_word _

section Division

variable (c : DivCorner) (a b : Word)

theorem isCanonical_divLo : IsCanonical (divLo c a b) := by
  unfold divLo
  split
  · exact isCanonical_corner _ _
  split
  · exact isCanonical_corner _ _
  · exact isCanonical_word _

theorem isCanonical_divHi : IsCanonical (divHi c a b) := by
  unfold divHi
  split
  · exact isCanonical_corner _ _
  split
  · exact isCanonical_corner _ _
  · exact isCanonical_word _

theorem isCanonical_divuLo : IsCanonical (divuLo c a b) := by
  unfold divuLo
  split
  · exact isCanonical_corner _ _
  · exact isCanonical_word _

theorem isCanonical_divuHi : IsCanonical (divuHi c a b) := by
  unfold divuHi
  split
  · exact isCanonical_corner _ _
  · exact isCanonical_word _

end Division

/-- Every general register, HI and LO are canonical. -/
structure CanonicalRegs (s : State) : Prop where
  regs : ∀ r, IsCanonical (s.getX r)
  hi : IsCanonical s.cpu.hi
  lo : IsCanonical s.cpu.lo

namespace CanonicalRegs

variable {s t : State}

/-- Only the register file, HI and LO matter. -/
theorem congr (h : CanonicalRegs s) (hx : t.cpu.x = s.cpu.x) (hhi : t.cpu.hi = s.cpu.hi) (hlo : t.cpu.lo = s.cpu.lo) :
    CanonicalRegs t :=
  ⟨fun r => State.getX_congr hx r ▸ h.regs r, hhi ▸ h.hi, hlo ▸ h.lo⟩

theorem of_cpu (h : CanonicalRegs s) (hcpu : t.cpu = s.cpu) : CanonicalRegs t :=
  h.congr (by rw [hcpu]) (by rw [hcpu]) (by rw [hcpu])

theorem setX (h : CanonicalRegs s) {v : DWord} (hv : IsCanonical v) (rd : Reg) : CanonicalRegs (s.setX rd v) := by
  refine ⟨fun r => ?_, h.hi, h.lo⟩
  by_cases hr : r = rd
  · rw [hr, State.getX_setX_same]
    split
    · exact isCanonical_word 0#32
    · exact hv
  · rw [State.getX_setX_other s v hr]
    exact h.regs r

theorem setW (h : CanonicalRegs s) (rd : Reg) (v : Word) : CanonicalRegs (s.setW rd v) := h.setX (isCanonical_word v) rd

theorem setHi (h : CanonicalRegs s) {v : DWord} (hv : IsCanonical v) : CanonicalRegs (s.setHi v) := ⟨h.regs, hv, h.lo⟩

theorem setLo (h : CanonicalRegs s) {v : DWord} (hv : IsCanonical v) : CanonicalRegs (s.setLo v) := ⟨h.regs, h.hi, hv⟩

theorem retire (h : CanonicalRegs s) : CanonicalRegs s.retire := h.congr rfl rfl rfl

theorem retireIf (h : CanonicalRegs s) (c : Bool) (target : Word) : CanonicalRegs (s.retireIf c target) := by
  cases c <;> exact h.congr rfl rfl rfl

theorem enterException (h : CanonicalRegs s) (c : ExcCode) : CanonicalRegs (s.enterException c) := h.congr rfl rfl rfl

theorem memWrite (h : CanonicalRegs s) (a : Word) (n : Access) (v : Word) : CanonicalRegs (s.memWrite a n v) :=
  h.of_cpu (s.memWrite_cpu a n v)

end CanonicalRegs

/-- Every CPU instruction but LWU writes canonical values. -/
theorem exec_canonical_of_cpu {i : Instr} {s : State} (hi : i.block = .cpu) (hlwu : ∀ rt base off, i ≠ .lwu rt base off)
    (h : CanonicalRegs s) : ∃ t, exec i s = .next t ∧ CanonicalRegs t := by
  cases i
  case sll | srl | sra | sllv | srlv | srav | addu | subu | addiu | lui => exact ⟨_, rfl, (h.setW _ _).retire⟩
  case add | sub | addi =>
    dsimp only [exec, execAdd, execSub, execAddi]
    split
    · exact ⟨_, rfl, h.enterException .ov⟩
    · exact ⟨_, rfl, (h.setW _ _).retire⟩
  case and => exact ⟨_, rfl, (h.setX ((h.regs _).and (h.regs _)) _).retire⟩
  case or => exact ⟨_, rfl, (h.setX ((h.regs _).or (h.regs _)) _).retire⟩
  case xor => exact ⟨_, rfl, (h.setX ((h.regs _).xor (h.regs _)) _).retire⟩
  case nor => exact ⟨_, rfl, (h.setX ((h.regs _).or (h.regs _)).not _).retire⟩
  case andi => exact ⟨_, rfl, (h.setX ((h.regs _).and (isCanonical_immZero _)) _).retire⟩
  case ori => exact ⟨_, rfl, (h.setX ((h.regs _).or (isCanonical_immZero _)) _).retire⟩
  case xori => exact ⟨_, rfl, (h.setX ((h.regs _).xor (isCanonical_immZero _)) _).retire⟩
  case slt | sltu | slti | sltiu => exact ⟨_, rfl, (h.setX (isCanonical_boolWord _) _).retire⟩
  case mfhi => exact ⟨_, rfl, (h.setX h.hi _).retire⟩
  case mflo => exact ⟨_, rfl, (h.setX h.lo _).retire⟩
  case mthi => exact ⟨_, rfl, (h.setHi (h.regs _)).retire⟩
  case mtlo => exact ⟨_, rfl, (h.setLo (h.regs _)).retire⟩
  case mult | multu => exact ⟨_, rfl, ((h.setLo (isCanonical_word _)).setHi (isCanonical_word _)).retire⟩
  case div => exact ⟨_, rfl, ((h.setLo (isCanonical_divLo _ _ _)).setHi (isCanonical_divHi _ _ _)).retire⟩
  case divu => exact ⟨_, rfl, ((h.setLo (isCanonical_divuLo _ _ _)).setHi (isCanonical_divuHi _ _ _)).retire⟩
  case lb | lh => exact ⟨_, rfl, (h.setX (isCanonical_signExtend (by decide) (by decide) _) _).retire⟩
  case lbu | lhu => exact ⟨_, rfl, (h.setX (isCanonical_setWidth (by decide) _) _).retire⟩
  case lw | mfc0 => exact ⟨_, rfl, (h.setX (isCanonical_word _) _).retire⟩
  case ll => exact ⟨_, rfl, (h.setX (isCanonical_word _) _).congr rfl rfl rfl⟩
  case lwu rt base off => exact absurd rfl (hlwu rt base off)
  case sb | sh | sw => exact ⟨_, rfl, (h.memWrite _ _ _).retire⟩
  case sc =>
    dsimp only [exec, execSc]
    split
    · exact ⟨_, rfl, ((h.memWrite _ _ _).setX (isCanonical_word 1#32) _).congr rfl rfl rfl⟩
    · exact ⟨_, rfl, (h.setX (isCanonical_word 0#32) _).congr rfl rfl rfl⟩
  case beq | bne | blez | bgtz | bltz | bgez | j | jr => exact ⟨_, rfl, h.retireIf _ _⟩
  case bltzal | bgezal | jal | jalr => exact ⟨_, rfl, (h.setX (isCanonical_word _) _).retireIf _ _⟩
  case mtc0 | eret | syscall | brk => exact ⟨_, rfl, h.congr rfl rfl rfl⟩
  all_goals nomatch hi

theorem exec_canonical {i : Instr} {s : State} (hlwu : ∀ rt base off, i ≠ .lwu rt base off) (h : CanonicalRegs s) :
    ∃ t, exec i s = .next t ∧ CanonicalRegs t := by
  cases hi : i.block with
  | cpu => exact exec_canonical_of_cpu hi hlwu h
  | rsp =>
    obtain ⟨t, ht, hcpu⟩ := exec_keeps_cpu_of_rsp hi s
    exact ⟨t, ht, h.of_cpu hcpu⟩
  | rdp =>
    obtain ⟨t, ht, hcpu⟩ := exec_keeps_cpu_of_rdp hi s
    exact ⟨t, ht, h.of_cpu hcpu⟩

/-- Settles O21: word results are sign-extended, and the 64-bit operations keep canonical operands canonical. -/
theorem onlyLwuBreaksCanonicalRegisters : Obligations.OnlyLwuBreaksCanonicalRegisters := by
  intro i s t hlwu hregs hhi hlo ht
  obtain ⟨u, hu, hcanonical⟩ := exec_canonical hlwu (s := s) ⟨hregs, hhi, hlo⟩
  rw [ht] at hu
  injection hu with hu
  subst hu
  exact ⟨hcanonical.regs, hcanonical.hi, hcanonical.lo⟩

end Sys2Proof.Machine
end

section
/-! The bus and the CPU's loads and stores (20_memory sections 1, 2, 4; 41_cpu_loadstore): what a bus access does in each
region of the address map, and what a load, a store, LL and SC do with it. -/

namespace Sys2Proof.Machine

/-! ### A bus access, region by region (20_memory R84 to R86) -/

section Access

variable {s : State} {a : Word} {off : Nat}

theorem memRead_of_rdram (h : s.region (physAddr a) = .rdram off) (n : Access) :
    s.memRead a n = joinBytes (fun i => s.rdramReadByte (off + i)) n.size := by
  unfold State.memRead
  rw [h]

theorem memRead_of_dmem (h : s.region (physAddr a) = .dmem off) (n : Access) :
    s.memRead a n = joinBytes (fun i => Store.peek s.rsp.dmem 4096 (off + i)) n.size := by
  unfold State.memRead
  rw [h]
  rfl

theorem memRead_of_imem (h : s.region (physAddr a) = .imem off) (n : Access) :
    s.memRead a n = joinBytes (fun i => Store.peek s.rsp.imem 4096 (off + i)) n.size := by
  unfold State.memRead
  rw [h]
  rfl

theorem memRead_of_save (h : s.region (physAddr a) = .save off) (n : Access) : s.memRead a n = s.saveRead off n := by
  unfold State.memRead
  rw [h]

theorem memRead_of_rom (h : s.region (physAddr a) = .rom off) (n : Access) : s.memRead a n = s.romRead off n := by
  unfold State.memRead
  rw [h]

theorem memWrite_of_rom (h : s.region (physAddr a) = .rom off) (n : Access) (v : Word) : s.memWrite a n v = s := by
  unfold State.memWrite
  rw [h]

theorem memRead_of_unmapped (h : s.region (physAddr a) = .unmapped) (n : Access) : s.memRead a n = 0#32 := by
  unfold State.memRead
  rw [h]

theorem memWrite_of_unmapped (h : s.region (physAddr a) = .unmapped) (n : Access) (v : Word) : s.memWrite a n v = s := by
  unfold State.memWrite
  rw [h]

theorem memRead_of_busReg {r : BusReg} (h : registerAt s (physAddr a) = some r) : s.memRead a .word = s.readBusReg r := by
  unfold State.memRead
  rw [region_of_busReg h]

/-- An access in a register's word that is no word access at the register's own address. -/
theorem access_of_no_register {r : Option BusReg} (h : s.region (physAddr a) = .registers r) (n : Access) (v : Word)
    (hn : n = .word → r = none) : s.memRead a n = 0#32 ∧ s.memWrite a n v = s := by
  unfold State.memRead State.memWrite
  rw [h]
  cases n with
  | byte | half => exact ⟨rfl, rfl⟩
  | word =>
    rw [hn rfl]
    exact ⟨rfl, rfl⟩

end Access

/-- The bytes of an access are those of its width, whichever region answers. -/
theorem memRead_lt (s : State) (a : Word) {n : Access} (hn : n ≠ .word) : (s.memRead a n).toNat < 256 ^ n.size := by
  have hjoin : ∀ f : Nat → Byte, (joinBytes f n.size).toNat < 256 ^ n.size := fun f => (joinBytes_toNat f _ n.size_le).2
  have hzero : (0#32).toNat < 256 ^ n.size := Nat.pow_pos (by decide)
  cases hr : s.region (physAddr a) with
  | rdram off => exact memRead_of_rdram hr n ▸ hjoin _
  | dmem off => exact memRead_of_dmem hr n ▸ hjoin _
  | imem off => exact memRead_of_imem hr n ▸ hjoin _
  | registers r => exact (access_of_no_register hr n 0#32 fun h => absurd h hn).1 ▸ hzero
  | save off =>
    rw [memRead_of_save hr, State.saveRead]
    split
    · exact hjoin _
    · exact hzero
  | rom off =>
    rw [memRead_of_rom hr, State.romRead]
    split
    · exact hjoin _
    · exact hzero
  | unmapped => exact memRead_of_unmapped hr n ▸ hzero

/-! ### The address map at the default numbers (20_memory R82, R100) -/

theorem saveSize_of_none {s : State} (h : s.cart = none) : s.saveSize = 0 := by rw [State.saveSize, h]

theorem defaultMap_of_default {s : State} (h : s.params = Params.default) : DefaultMap s := by
  refine ⟨by rw [h]; rfl, by rw [h]; rfl, ?_⟩
  unfold State.saveSize
  split
  next c _ =>
    rw [h]
    cases c.saveType <;> decide
  next => decide

section DefaultMap

variable {s : State} {pa : Nat}

/-- The words of the default REGWIN. -/
theorem inRegwin_default (h : DefaultMap s) : s.params.inRegwin pa = false ↔
    (pa < 0x04040000 ∨ 0x04040014 ≤ pa) ∧ (pa < 0x04080000 ∨ 0x04080004 ≤ pa) ∧ (pa < 0x04100000 ∨ 0x04100008 ≤ pa) := by
  rw [inRegwin_eq_false_iff, h.2.1]
  simp only [defaultRegwin, List.forall_mem_cons, List.not_mem_nil, false_implies, implies_true, and_true]
  omega

theorem unmappedAt_of_defaultHole (h : DefaultMap s) (hole : DefaultHole s pa) : UnmappedAt s pa := by
  obtain ⟨hrdram, -, hsave⟩ := id h
  have hregs := inRegwin_eq_false_iff.1 ((inRegwin_default (pa := pa) h).2 (by
    unfold DefaultHole at hole
    omega))
  by_cases hc : s.cart = none
  · have hsize := saveSize_of_none hc
    simp only [DefaultHole, hc, true_and] at hole
    exact ⟨by omega, by omega, hregs, by omega, .inl hc⟩
  · simp only [DefaultHole, hc, false_and, or_false] at hole
    exact ⟨by omega, by omega, hregs, by omega, .inr (by omega)⟩

theorem lookup_defaultRegwin_eq_none (h : pa ∉ [0x04040000, 0x04040004, 0x04040008, 0x0404000C, 0x04040010, 0x04080000,
    0x04100000, 0x04100004]) : defaultRegwin.lookup pa = none := by
  refine List.lookup_eq_none_iff.2 ?_
  simpa [defaultRegwin] using h

/-- The register at an address of the default map. -/
theorem registerAt_default (h : DefaultMap s) : registerAt s pa = defaultRegwin.lookup pa := by
  obtain ⟨hrdram, hregwin, -⟩ := h
  unfold registerAt
  split
  next hlow =>
    refine (lookup_defaultRegwin_eq_none ?_).symm
    simp only [List.mem_cons, List.not_mem_nil, or_false]
    omega
  next => rw [Params.busRegAt, hregwin]

end DefaultMap

/-- Settles O22: the region of the first byte answers the access. -/
theorem memReadIsBigEndian : Obligations.MemReadIsBigEndian := by
  intro s a n v
  have hunmapped : UnmappedAt s (physAddr a) → s.memRead a n = 0#32 ∧ s.memWrite a n v = s := fun h =>
    ⟨memRead_of_unmapped (region_unmapped h) n, memWrite_of_unmapped (region_unmapped h) n v⟩
  refine ⟨fun h => ?_, fun h h1 h2 => ?_, fun h h1 h2 => ?_, fun h hr h1 h2 => memRead_of_save (region_save h hr h1 h2) n,
    hunmapped, fun hmap hole => hunmapped (unmappedAt_of_defaultHole hmap hole), fun hmap h => ?_, defaultMap_of_default⟩
  · rw [memRead_of_rdram (region_rdram h), joinBytes_access]
  · rw [memRead_of_dmem (region_dmem h h1 h2), joinBytes_access]
    rfl
  · rw [memRead_of_imem (region_imem h h1 h2), joinBytes_access]
    rfl
  · exact ⟨by rw [hmap.1]; omega, (inRegwin_default hmap).2 (by omega)⟩

/-! ### RDRAM, byte by byte -/

theorem rdramReadByte_rdramWriteByte (s : State) (a b : Nat) (v : Byte) : (s.rdramWriteByte a v).rdramReadByte b =
    if b = a ∧ b < s.params.rdramSize then v else s.rdramReadByte b := Store.peek_poke _ _ _ _ _

/-- Bytes written one by one are written to the RDRAM store one by one. -/
theorem foldl_rdramWriteByte (loc : Nat → Nat) (b : Nat → Byte) (l : List Nat) (s : State) :
    l.foldl (fun t i => t.rdramWriteByte (loc i) (b i)) s =
      { s with rdram := l.foldl (fun m i => Store.poke m s.params.rdramSize (loc i) (b i)) s.rdram } := by
  induction l generalizing s with
  | nil => rfl
  | cons i l ih =>
    rw [List.foldl_cons, ih]
    rfl

theorem memWrite_of_rdram {s : State} {a : Word} {off : Nat} (h : s.region (physAddr a) = .rdram off) (n : Access)
    (v : Word) : s.memWrite a n v =
      (List.range n.size).foldl (fun t i => t.rdramWriteByte (off + i) (byteOf n.size v i)) s := by
  rw [foldl_rdramWriteByte]
  unfold State.memWrite
  rw [h]
  rfl

/-- Settles O23: the bytes of a bus access in RDRAM are read and written one by one. -/
theorem rdramBytes : Obligations.RdramBytes := by
  intro s a b v
  refine ⟨fun h => ?_, fun h => ?_, fun h => ⟨if_neg h, ?_⟩, fun addr n w h => ⟨?_, ?_⟩⟩
  · rw [rdramReadByte_rdramWriteByte, if_pos ⟨rfl, h⟩]
  · rw [rdramReadByte_rdramWriteByte, if_neg fun e => h e.1]
  · rw [State.rdramWriteByte, Store.poke, if_neg h]
  · rw [memRead_of_rdram (region_rdram h), joinBytes_access]
  · simp only [memWrite_of_rdram (region_rdram h), byteOf_eq]

/-! ### Loads -/

theorem signExtend_setWidth_eq {w : Nat} (v : Word) (k : Nat) :
    (v.setWidth k).signExtend w = BitVec.ofInt w ((v.toNat : Int).bmod (2 ^ k)) := by
  rw [BitVec.signExtend, BitVec.toInt_setWidth]

theorem signExtend_word_eq (v : Word) : v.signExtend 64 = BitVec.ofInt 64 ((v.toNat : Int).bmod (2 ^ 32)) := by
  rw [← signExtend_setWidth_eq, BitVec.setWidth_eq]

theorem setWidth_setWidth_eq {w k : Nat} {v : Word} (h : v.toNat < 2 ^ k) :
    (v.setWidth k).setWidth w = BitVec.ofNat w v.toNat := by
  apply BitVec.eq_of_toNat_eq
  rw [BitVec.toNat_setWidth, BitVec.toNat_setWidth, Nat.mod_eq_of_lt h, BitVec.toNat_ofNat]

/-- Settles O24: the value of the access, extended. -/
theorem loadInstructions : Obligations.LoadInstructions := by
  refine ⟨by simp +contextual [CpuPrimary, decodeCpuWord], fun s rt base off ea hea => ?_⟩
  rw [← State.ea_eq] at hea
  subst hea
  rw [← signExtend_setWidth_eq, ← signExtend_setWidth_eq, ← signExtend_word_eq,
    ← setWidth_setWidth_eq (k := 8) (memRead_lt s _ (n := .byte) nofun),
    ← setWidth_setWidth_eq (k := 16) (memRead_lt s _ (n := .half) nofun), BitVec.ofNat_toNat]
  exact ⟨writesX_of_exec rfl, writesX_of_exec rfl, writesX_of_exec rfl, writesX_of_exec rfl, writesX_of_exec rfl,
    writesX_of_exec rfl⟩

/-! ### Stores -/

/-- An instruction that leaves the CPU as an advance does changes no register. -/
theorem advanced_of_cpu {s t : State} (h : t.cpu = s.retire.cpu) : SameRegs s t ∧ SameSpecial s t ∧ Advanced s t := by
  refine ⟨fun r => State.getX_congr (by rw [h]; rfl) r, ⟨by rw [h]; rfl, by rw [h]; rfl, by rw [h]; rfl, by rw [h]; rfl,
    by rw [h]; rfl, by rw [h]; rfl⟩, ⟨by rw [h]; rfl, ?_, by rw [h]; rfl⟩⟩
  rw [h]
  exact (advanced_retire s).delayFlag

theorem retire_cpu_congr {s t : State} (h : t.cpu = s.cpu) : t.retire.cpu = s.retire.cpu := by
  simp only [State.retire, State.advance, h]

/-- Everything a store does: the bus write is `P`'s, and the CPU advances. -/
theorem stores_of_exec {i : Instr} {s : State} {a v : Word} {n : Access} {P : State → Prop}
    (h : exec i s = .next (s.memWrite a n v).retire) (hP : P (s.memWrite a n v).retire) :
    ∃ t, exec i s = .next t ∧ P t ∧ SameRegs s t ∧ SameSpecial s t ∧ Advanced s t :=
  ⟨_, h, hP, advanced_of_cpu (retire_cpu_congr (s.memWrite_cpu a n v))⟩

theorem storedAt_retire {s : State} {a v : Word} {n : Access} (h : n = .word → registerAt s (physAddr a) = none) :
    StoredAt s (s.memWrite a n v).retire (physAddr a) n.size v :=
  (storedAt_memWrite s a n v h).of_cpu _

theorem registerAction_retire {s : State} {a v : Word} {r : BusReg} (h : registerAt s (physAddr a) = some r) :
    RegisterAction s (s.memWrite a .word v).retire r v := by
  rw [State.memWrite_busReg h]
  exact registerAction_cpu (registerAction_writeBusReg s r v) _

/-- Settles O25: a store is a bus write and an advance. -/
theorem storeInstructions : Obligations.StoreInstructions := by
  refine ⟨by simp +contextual [CpuPrimary, decodeCpuWord], fun s rt base off ea hea => ?_⟩
  rw [← State.ea_eq] at hea
  subst hea
  exact ⟨stores_of_exec rfl (storedAt_retire nofun), stores_of_exec rfl (storedAt_retire nofun),
    fun h => stores_of_exec rfl (storedAt_retire fun _ => h)⟩

/-- Settles O26: a word write at a register's address is its write action. -/
theorem storeToBusRegister : Obligations.StoreToBusRegister := by
  intro s rt base off ea r hea h
  rw [← State.ea_eq] at hea
  subst hea
  exact stores_of_exec rfl (registerAction_retire h)

/-! ### Reads of the register windows (20_memory R100, R102) -/

theorem spStatusValue_bits (r : RunState) : ((spStatusValue r).getLsbD 0 = true ↔ r ≠ .running)
    ∧ ((spStatusValue r).getLsbD 1 = true ↔ r = .broke) ∧ (spStatusValue r).toNat < 4 := by
  cases r <;> decide

/-- An address in a register's word, where no earlier region of the map comes first. -/
theorem region_of_inRegwin {s : State} {pa : Nat} (h0 : s.params.rdramSize ≤ pa)
    (hw : pa < 0x04000000 ∨ 0x04001FFF < pa) (hr : s.params.inRegwin pa = true) :
    s.region pa = .registers (registerAt s pa) := by
  rw [registerAt, if_neg (by omega), State.region, if_neg (by omega), if_neg (by omega), if_neg (by omega), if_pos hr]

theorem inRegwin_of_mem {p : Params} {pa : Nat} (h : ∃ row ∈ p.regwin, row.1 ≤ pa ∧ pa < row.1 + 4) :
    p.inRegwin pa = true := by
  obtain ⟨row, hrow, h1, h2⟩ := h
  exact List.any_eq_true.2 ⟨row, hrow, by simp [h1, h2]⟩

/-- Settles O27: a register answers a word access at its own address alone. -/
theorem busRegisterReads : Obligations.BusRegisterReads := by
  refine ⟨fun s a n v => ?_, fun s h => ?_⟩
  · have hnarrow : s.params.rdramSize ≤ physAddr a → (physAddr a < 0x04000000 ∨ 0x04001FFF < physAddr a) →
        s.params.inRegwin (physAddr a) = true → (n = .word → registerAt s (physAddr a) = none) →
        s.memRead a n = 0#32 ∧ s.memWrite a n v = s := fun h0 hw hr =>
      access_of_no_register (region_of_inRegwin h0 hw hr) n v
    refine ⟨fun h => ?_, fun h => ?_, fun h => ?_, fun h => ?_, fun h => ?_, fun h => ?_,
      fun h0 hw hrow => hnarrow h0 hw (inRegwin_of_mem hrow), fun hmap hwindow hn => ?_⟩
    · exact (memRead_of_busReg h).trans (BitVec.ofNat_toNat _ _).symm
    · exact (memRead_of_busReg h).trans (BitVec.ofNat_toNat _ _).symm
    · rcases h with h | h <;> exact memRead_of_busReg h
    · rw [memRead_of_busReg h]
      exact spStatusValue_bits s.rsp.run
    · exact (memRead_of_busReg h).trans (BitVec.ofNat_toNat _ _).symm
    · rcases h with h | h <;> exact (memRead_of_busReg h).trans (BitVec.ofNat_toNat _ _).symm
    · refine hnarrow (by rw [hmap.1]; omega) (by omega) ?_ fun hword => ?_
      · rw [← Bool.not_eq_false, inRegwin_default hmap]
        omega
      · rw [registerAt_default hmap]
        have hmod := hn hword
        refine lookup_defaultRegwin_eq_none fun hmem => hmod ?_
        revert hmem
        generalize physAddr a = pa
        revert pa
        decide
  · simp only [registerAt_default h]
    exact ⟨rfl, rfl, rfl, rfl, rfl, rfl, rfl, rfl, fun _ => lookup_defaultRegwin_eq_none⟩

/-! ### LL, SC and the linked flag -/

/-- An instruction that leaves the CPU as a register write, a write of the linked flag and an advance do. -/
theorem linked_of_cpu {s t : State} {rt : Reg} {v : DWord} {flag : Bool}
    (h : t.cpu = ((s.setX rt v).setLl flag).retire.cpu) :
    RegsWith s t rt v ∧ SameSpecial (s.setLl flag) t ∧ Advanced s t := by
  have hx : ∀ r, t.getX r = (s.setX rt v).getX r := fun r => State.getX_congr (by rw [h]; rfl) r
  refine ⟨⟨(hx rt).trans (State.getX_setX_same s rt v), fun r hr => (hx r).trans (State.getX_setX_other s v hr)⟩,
    ⟨by rw [h]; rfl, by rw [h]; rfl, by rw [h]; rfl, by rw [h]; rfl, by rw [h]; rfl, by rw [h]; rfl⟩,
    ⟨by rw [h]; rfl, ?_, by rw [h]; rfl⟩⟩
  rw [h]
  exact (advanced_retire _).delayFlag

theorem exec_sc_of_set {s : State} (h : s.cpu.llFlag = true) (rt base : Reg) (off : BitVec 16) :
    exec (.sc rt base off) s = .next
      { (s.memWrite (s.ea base off) .word (s.getW rt)).retire with cpu := ((s.setX rt 1#64).setLl false).retire.cpu } := by
  have hcpu := retire_cpu_congr (s := (s.setX rt 1#64).setLl false)
    (t := ((s.memWrite (s.ea base off) .word (s.getW rt)).setX rt 1#64).setLl false)
    (by simp only [State.setLl, State.setX, s.memWrite_cpu])
  show (if s.cpu.llFlag then _ else _) = _
  rw [if_pos h, ← hcpu]
  rfl

theorem exec_sc_of_clear {s : State} (h : s.cpu.llFlag = false) (rt base : Reg) (off : BitVec 16) :
    exec (.sc rt base off) s = .next ((s.setX rt 0#64).setLl false).retire := by
  show (if s.cpu.llFlag then _ else _) = _
  rw [h]
  rfl

/-- Settles O28: SC's store is SW's, under the flag. -/
theorem linkedLoadAndStore : Obligations.LinkedLoadAndStore := by
  refine ⟨by simp +contextual [CpuPrimary, decodeCpuWord], fun s rt base off ea hea => ?_⟩
  rw [← State.ea_eq] at hea
  subst hea
  refine ⟨?_, fun hclear => ?_, fun hset hnone => ?_, fun r hset hreg => ?_⟩
  · obtain ⟨hregs, hspecial, hadvanced⟩ := linked_of_cpu (s := s) (rt := rt) rfl
    exact ⟨_, rfl, signExtend_word_eq _ ▸ hregs, hspecial, hadvanced, SameOutsideCpu.of_eq rfl rfl rfl rfl rfl rfl rfl rfl⟩
  · obtain ⟨hregs, hspecial, hadvanced⟩ := linked_of_cpu (s := s) (rt := rt) rfl
    exact ⟨_, exec_sc_of_clear hclear rt base off, hregs, hspecial, hadvanced,
      SameOutsideCpu.of_eq rfl rfl rfl rfl rfl rfl rfl rfl⟩
  · exact ⟨_, exec_sc_of_set hset rt base off, (storedAt_retire fun _ => hnone).of_cpu _, linked_of_cpu rfl⟩
  · exact ⟨_, exec_sc_of_set hset rt base off, registerAction_cpu (registerAction_retire hreg) _, linked_of_cpu rfl⟩

/-- The linked flag (10_state R24). -/
def State.linkedFlag (s : State) : Bool := s.cpu.llFlag

theorem exec_keeps_linkedFlag_of_cpu {i : Instr} (h : i.block = .cpu) (hll : ∀ rt base off, i ≠ .ll rt base off)
    (hsc : ∀ rt base off, i ≠ .sc rt base off) (s : State) : Keeps State.linkedFlag s (exec i s) := by
  have hbranch : ∀ (t : State) (c : Bool) (target : Word), (t.retireIf c target).linkedFlag = t.linkedFlag :=
    fun _ c _ => by cases c <;> rfl
  have hstore : ∀ a n v, (s.memWrite a n v).linkedFlag = s.linkedFlag := fun a n v =>
    congrArg Cpu.llFlag (s.memWrite_cpu a n v)
  cases i
  case sll | srl | sra | sllv | srlv | srav | addu | subu | and | or | xor | nor | slt | sltu | addiu | slti | sltiu | andi
      | ori | xori | lui | mfhi | mthi | mflo | mtlo | mult | multu | div | divu | lb | lh | lw | lbu | lhu | lwu
      | mfc0 | mtc0 | syscall | brk | eret =>
    exact .next rfl
  case add | sub | addi => exact .ite (.next rfl) (.next rfl)
  case beq | bne | blez | bgtz | bltz | bgez | bltzal | bgezal | j | jal | jr | jalr => exact .next (hbranch _ _ _)
  case sb | sh | sw => exact .next (hstore _ _ _)
  case ll rt base off => exact absurd rfl (hll rt base off)
  case sc rt base off => exact absurd rfl (hsc rt base off)
  all_goals nomatch h

theorem exec_keeps_linkedFlag {i : Instr} (hll : ∀ rt base off, i ≠ .ll rt base off)
    (hsc : ∀ rt base off, i ≠ .sc rt base off) (s : State) : Keeps State.linkedFlag s (exec i s) := by
  cases hi : i.block with
  | cpu => exact exec_keeps_linkedFlag_of_cpu hi hll hsc s
  | rsp => exact (exec_keeps_cpu_of_rsp hi s).map Cpu.llFlag
  | rdp => exact (exec_keeps_cpu_of_rdp hi s).map Cpu.llFlag

theorem State.poll_linkedFlag (s : State) : s.poll.linkedFlag = s.linkedFlag := by
  unfold State.poll
  split <;> rfl

/-- Every port but the CPU step keeps the flag, and reset clears it. -/
theorem runCall_linkedFlag {c : PortCall} (s : State) (hstep : c ≠ .cpuStep) :
    ∃ t, runCall c s = .next t ∧ t.cpu.llFlag = if c = .reset then false else s.cpu.llFlag := by
  by_cases hreset : c = .reset
  · subst hreset
    exact ⟨_, rfl, rfl⟩
  rw [if_neg hreset]
  by_cases hline : (∃ line, c = .irqSet line) ∨ ∃ line, c = .irqClear line
  · obtain ⟨line, rfl⟩ | ⟨line, rfl⟩ := hline <;> exact ⟨_, rfl, rfl⟩
  · exact (runCall_keeps_cpu s hstep hreset (fun line h => hline (.inl ⟨line, h⟩))
      fun line h => hline (.inr ⟨line, h⟩)).map Cpu.llFlag

/-- Settles O29: no operation but LL's, SC's and reset writes the flag. -/
theorem linkedFlagRule : Obligations.LinkedFlagRule := by
  refine ⟨rfl, fun s rt base off => ⟨⟨_, rfl, rfl⟩, ?_⟩, fun i s hll hsc => exec_keeps_linkedFlag hll hsc s,
    fun s c => ⟨rfl, s.poll_linkedFlag⟩, fun c s hstep => runCall_linkedFlag s hstep⟩
  cases hflag : s.cpu.llFlag with
  | true => exact ⟨_, exec_sc_of_set hflag rt base off, rfl⟩
  | false => exact ⟨_, exec_sc_of_clear hflag rt base off, rfl⟩

end Sys2Proof.Machine
end

section
/-! The Cartridge (20_memory sections 5 and 6): ROM reads, the save buffer, and construction. -/

namespace Sys2Proof.Machine

/-! ### ROM (20_memory R114 to R117) -/

theorem romRead_toNat {s : State} {c : Cartridge} (hc : s.cart = some c) (off : Nat) (n : Access) :
    (s.romRead off n).toNat =
      bigEndian ((List.range n.size).map fun i => c.rom.getD (c.effectiveOffset s.bank off n.size + i) 0#8) := by
  rw [State.romRead, hc]
  exact joinBytes_access _ n

/-- The clamped offset, with the size of a bank written out (20_memory R114). -/
theorem effectiveOffset_eq (c : Cartridge) (bank off n : Nat) : c.effectiveOffset bank off n =
    min (if 0x200000 < c.rom.length then
        min bank ((c.rom.length + 0x1FFFFF) / 0x200000 - 1) * 0x200000 + off
      else off) (c.rom.length - n) := by
  have hround : c.rom.length + Config.bankSize - 1 = c.rom.length + 0x1FFFFF := by
    rw [Config.bankSize]
    omega
  rw [Cartridge.effectiveOffset, hround, Config.bankSize]

theorem State.writeBusReg_bank (s : State) (r : BusReg) (v : Word) : (s.writeBusReg r v).bank = s.bank := by
  cases r <;> rfl

theorem State.memWrite_bank (s : State) (a : Word) (n : Access) (v : Word) : (s.memWrite a n v).bank = s.bank := by
  by_cases h : n = .word → registerAt s (physAddr a) = none
  · exact (storedAt_memWrite s a n v h).bank
  · obtain ⟨rfl, hreg⟩ := Classical.not_imp.1 h
    obtain ⟨r, hr⟩ := Option.ne_none_iff_exists'.1 hreg
    rw [State.memWrite_busReg hr, State.writeBusReg_bank]

/-- Settles O30: the window's region is the ROM's, whose reads are clamped. -/
theorem cartridgeRom : Obligations.CartridgeRom := by
  refine ⟨fun s c a n v off size eff hc h0 hreg hsave hoff hlast hsize heff => ?_, fun s pa hmap h => ?_,
    fun s n => ⟨_, rfl, rfl⟩, State.memWrite_bank⟩
  · have hregion : s.region (physAddr a) = .rom off := by
      rw [region_rom hc h0 hreg hsave (by omega) hlast, hoff, Nat.add_sub_cancel_left]
    have heff' : eff = c.effectiveOffset s.bank off n.size := by rw [heff, hsize, effectiveOffset_eq]
    refine ⟨?_, memWrite_of_rom hregion n v, fun hbank hfit => ?_⟩
    · rw [memRead_of_rom hregion, romRead_toNat hc, heff']
    · rw [hbank, Nat.zero_min, Nat.zero_mul, Nat.zero_add, ite_self] at heff
      omega
  · exact ⟨by rw [hmap.1]; omega, (inRegwin_default hmap).2 (by omega), hmap.2.2.trans h⟩

/-! ### The save buffer (20_memory R118, R120 to R124) -/

section Save

variable (size : Nat) (c : Cartridge)

theorem savePersist_length : (c.savePersist size).length = size := by simp [Cartridge.savePersist]

/-- A persisted byte is the buffer's, and 0 beyond it. -/
theorem savePersist_getD (k : Nat) : (c.savePersist size).getD k 0#8 = Store.peek c.save size k := by
  unfold Cartridge.savePersist Store.peek
  split
  next h => simp [List.getD, h]
  next h => simp [List.getD, h]

theorem saveRead_toNat (off : Nat) (n : Access) : (c.saveRead size off n).toNat =
    bigEndian ((List.range n.size).map fun i => (c.savePersist size).getD (off + i) 0#8) := by
  simp only [savePersist_getD]
  exact joinBytes_access _ n

theorem savePersist_saveWrite_getD (off : Nat) (n : Access) (v : Word) {k : Nat} (hk : k < size) :
    (((c.saveWrite size off n v).savePersist size).getD k 0#8).toNat =
      if off ≤ k ∧ k < off + n.size then v.toNat / 256 ^ (n.size - 1 - (k - off)) % 256
      else ((c.savePersist size).getD k 0#8).toNat := by
  rw [savePersist_getD, savePersist_getD, Cartridge.saveWrite, peek_writeBytes, apply_ite BitVec.toNat, byteOf_toNat]
  exact if_congr (by omega) rfl rfl

/-- A buffer of size 0 takes no byte and reads 0 (20_memory R122). -/
theorem writeBytes_size_zero (m : Memory) (loc : Nat → Nat) (n : Nat) (v : Word) : writeBytes m 0 loc n v = m := by
  unfold writeBytes
  simp [Store.poke]

theorem joinBytes_zero (n : Nat) : joinBytes (fun _ => 0#8) n = 0#32 := by
  induction n with
  | zero => rfl
  | succ n ih =>
    rw [joinBytes_succ, ih]
    rfl

theorem savePersist_ofBytes (bytes : List Byte) (h : bytes.length = size) :
    Cartridge.savePersist size { c with save := Store.ofBytes 0 bytes } = bytes := by
  refine eq_of_getD (by rw [savePersist_length, h]) fun k hk => ?_
  rw [savePersist_length] at hk
  rw [savePersist_getD, Store.peek, if_pos hk, ← Nat.zero_add k, Store.get_ofBytes, Nat.zero_add]

/-- A bulk load of exactly the buffer's length takes the bytes; they persist as they were. -/
theorem saveLoad_of_length (bytes : List Byte) (h : bytes.length = size) :
    ∃ d, c.saveLoad size bytes = some d ∧ d.savePersist size = bytes ∧ d = { c with save := d.save } :=
  ⟨_, if_pos h, savePersist_ofBytes size c bytes h, rfl⟩

end Save

section SavePorts

variable {s : State} {c : Cartridge} (hc : s.cart = some c)
include hc

theorem saveSize_of_some : s.saveSize = s.params.saveSize c.saveType := by rw [State.saveSize, hc]

theorem saveRead_of_some (off : Nat) (n : Access) : s.saveRead off n = c.saveRead s.saveSize off n := by
  rw [State.saveRead, hc]

theorem saveWrite_of_some (off : Nat) (n : Access) (v : Word) :
    s.saveWrite off n v = { s with cart := some (c.saveWrite s.saveSize off n v) } := by
  rw [State.saveWrite, hc]
  rfl

theorem saveLoadPort_of_some {bytes : List Byte} {d : Cartridge} (h : c.saveLoad s.saveSize bytes = some d) :
    s.saveLoadPort bytes = { s with cart := some d, reply := .loaded true } := by
  rw [State.saveLoadPort, hc, Option.bind_some, h]

theorem saveLoadPort_of_none {bytes : List Byte} (h : c.saveLoad s.saveSize bytes = none) :
    s.saveLoadPort bytes = { s with reply := .loaded false } := by
  rw [State.saveLoadPort, hc, Option.bind_some, h]

theorem savePersistPort_of_some : s.savePersistPort = { s with reply := .bytes (c.savePersist s.saveSize) } := by
  rw [State.savePersistPort, hc]

end SavePorts

/-- Settles O31: what persists is the buffer byte by byte, and the ports are the Cartridge's own operations. -/
theorem saveBuffer : Obligations.SaveBuffer := by
  refine ⟨fun size c fresh off n v bytes => ⟨savePersist_length size c, saveRead_toNat size c off n,
      fun k hk => savePersist_saveWrite_getD size c off n v hk, fun hzero => ?_,
      saveLoad_of_length size c bytes, fun h => if_neg h, ?_⟩,
    fun s c size off n v bytes hc hsize => ?_, fun _ => rfl, rfl, rfl, rfl, rfl⟩
  · subst hzero
    exact ⟨by rw [Cartridge.saveWrite, writeBytes_size_zero], joinBytes_zero n.size⟩
  · obtain ⟨d, hd, hpersist, -⟩ := saveLoad_of_length size fresh (c.savePersist size) (savePersist_length size c)
    exact ⟨d, hd, hpersist⟩
  · rw [← saveSize_of_some hc] at hsize
    subst hsize
    exact ⟨by rw [← saveRead_of_some hc]; rfl, ⟨_, rfl, by rw [saveWrite_of_some hc]; rfl⟩,
      fun d hd => congrArg _ (saveLoadPort_of_some hc hd), fun hd => congrArg _ (saveLoadPort_of_none hc hd),
      congrArg _ (savePersistPort_of_some hc)⟩

/-! ### Construction (20_memory R110 to R113) -/

/-- The three magic orderings (20_memory R113). -/
theorem normaliseImage_eq_none_iff (image : List Byte) : normaliseImage image = none ↔
    image.take 4 ∉ [[0x80#8, 0x37#8, 0x12#8, 0x40#8], [0x37#8, 0x80#8, 0x40#8, 0x12#8],
      [0x40#8, 0x12#8, 0x37#8, 0x80#8]] := by
  unfold normaliseImage
  by_cases h1 : image.take 4 = [0x80#8, 0x37#8, 0x12#8, 0x40#8]
  · simp [h1]
  by_cases h2 : image.take 4 = [0x37#8, 0x80#8, 0x40#8, 0x12#8]
  · simp [h2]
  by_cases h3 : image.take 4 = [0x40#8, 0x12#8, 0x37#8, 0x80#8]
  · simp [h3]
  · simp [h1, h2, h3]

theorem constructCartridge_of_short (p : Params) (table : List (List Byte × SaveType)) {image : List Byte}
    (h : image.length < 0x40) : constructCartridge p table image = .error .tooShort := by
  unfold constructCartridge
  rw [if_pos h]

theorem constructCartridge_of_badMagic (p : Params) (table : List (List Byte × SaveType)) {image : List Byte}
    (h : 0x40 ≤ image.length) (hmagic : normaliseImage image = none) :
    constructCartridge p table image = .error .badMagic := by
  unfold constructCartridge
  rw [if_neg (by omega), hmagic]

theorem clockPlausible_eq_false_iff (p : Params) (b : Byte) : p.clockPlausible b = false ↔ b ∈ p.implausibleClocks := by
  simp [Params.clockPlausible]

theorem entryInWindow_iff (p : Params) (e : Word) :
    p.entryInWindow e = true ↔ p.entryFirst.toNat ≤ e.toNat ∧ e.toNat ≤ p.entryLast.toNat := by
  simp [Params.entryInWindow, BitVec.ule]

/-- A Cartridge's save type is that of its title. -/
theorem saveType_of_constructCartridge {p : Params} {table : List (List Byte × SaveType)} {image : List Byte} {c : Cartridge}
    (h : constructCartridge p table image = .ok c) : c.saveType = saveTypeOf table c.title := by
  unfold constructCartridge at h
  split at h
  · cases h
  split at h
  · cases h
  split at h
  · cases h
  split at h
  · cases h
  injection h with h
  subst h
  rfl

/-- Settles O32: the checks in their order, each from its own lemma. -/
theorem cartridgeConstruction : Obligations.CartridgeConstruction := by
  refine ⟨fun p table image => ⟨constructCartridge_of_short p table, fun hl hm =>
      constructCartridge_of_badMagic p table hl ((normaliseImage_eq_none_iff image).2 hm), fun hm => ?_,
      fun rom entry hl hn hentry => ?_⟩,
    fun p image c hc htitle => ?_, fun s image => ⟨fun c hc => ?_, fun e he => ?_⟩, rfl, rfl, rfl, rfl⟩
  · obtain ⟨rom, hrom⟩ := Option.ne_none_iff_exists'.1 fun h => (normaliseImage_eq_none_iff image).1 h hm
    exact ⟨rom, (normaliseImage_eq_some_iff image rom).1 hrom⟩
  · rw [constructCartridge_of_normalised p table hl hn]
    rw [← headerWord_toNat] at hentry
    subst hentry
    refine ⟨fun hclock => ?_, fun hclock hwindow => ?_, fun hclock hfirst hlast => ?_⟩
    · rw [if_pos ((clockPlausible_eq_false_iff _ _).2 hclock)]
    · rw [if_neg (mt (clockPlausible_eq_false_iff _ _).1 hclock),
        if_pos (Bool.eq_false_iff.2 (mt (entryInWindow_iff _ _).1 hwindow))]
    · refine ⟨_, ?_, builtFrom_cartridgeOf p table rom⟩
      rw [if_neg (mt (clockPlausible_eq_false_iff _ _).1 hclock), (entryInWindow_iff _ _).2 ⟨hfirst, hlast⟩]
      rfl
  · rw [saveType_of_constructCartridge hc, htitle]
    exact saveTypeOf_mysteryGame
  · show Host.Outcome.next (s.constructPort image) = _
    rw [State.constructPort, hc]
  · show Host.Outcome.next (s.constructPort image) = _
    rw [State.constructPort, he]

end Sys2Proof.Machine
end

section
/-! CPU control (42_cpu_control), the system instructions (43_cpu_system) and exceptions (60_exceptions). -/

namespace Sys2Proof.Machine

/-! ### Branches -/

/-- Settles O33: both operations are record updates. -/
theorem branchAndAdvance : Obligations.BranchAndAdvance := by
  refine fun s target taken => ⟨rfl, rfl, fun h => ⟨if_pos h, ?_⟩, fun h => ⟨?_, ?_⟩⟩
  · simp [h]
  · simp [h]
  · simp [h]

section Conditions

variable {w : Nat} (v : BitVec w)

theorem isNegative_iff : isNegative v = true ↔ v.toInt < 0 := by
  rw [isNegative, slt_iff, BitVec.toInt_zero]

theorem isPositive_iff : isPositive v = true ↔ 0 < v.toInt := by
  rw [isPositive, slt_iff, BitVec.toInt_zero]

theorem isNonPositive_iff : isNonPositive v = true ↔ v.toInt ≤ 0 := by
  rw [isNonPositive, BitVec.sle, decide_eq_true_iff, BitVec.toInt_zero]

theorem isNonNegative_iff : isNonNegative v = true ↔ 0 ≤ v.toInt := by
  rw [isNonNegative, BitVec.sle, decide_eq_true_iff, BitVec.toInt_zero]

end Conditions

theorem branchTarget_eq (pc : Word) (off : BitVec 16) :
    BitVec.ofInt 32 (pc.toNat + 4 + off.toInt * 4) = branchTarget pc off := by
  rw [BitVec.ofInt_add, BitVec.ofInt_add, BitVec.ofInt_natCast, BitVec.ofNat_toNat, BitVec.setWidth_eq, BitVec.ofInt_mul,
    branchTarget, BitVec.shiftLeft_eq_mul_twoPow]
  rfl

theorem linkValue_eq (pc : Word) : linkValue pc = wordResult (pc.toNat + 8) := by
  rw [wordResult_eq, BitVec.ofInt_add, BitVec.ofInt_natCast, BitVec.ofNat_toNat, BitVec.setWidth_eq]
  rfl

/-- Settles O34: one condition and the same target for all, in integers. -/
theorem conditionalBranches : Obligations.ConditionalBranches := by
  refine ⟨by simp +contextual [CpuPrimary, CpuRegimm, decodeCpuWord, decodeCpuRegimm], fun s rs rt off target ht => ?_⟩
  rw [branchTarget_eq] at ht
  subst ht
  have hlink := linkValue_eq s.cpu.pc
  exact ⟨branches_of_exec beq_iff_eq rfl, branches_of_exec bne_iff_ne rfl, branches_of_exec (isNonPositive_iff _) rfl,
    branches_of_exec (isPositive_iff _) rfl, branches_of_exec (isNegative_iff _) rfl,
    branches_of_exec (isNonNegative_iff _) rfl, branchesLinking_of_exec hlink (isNegative_iff _) rfl,
    branchesLinking_of_exec hlink (isNonNegative_iff _) rfl⟩

/-! ### Jumps -/

/-- The bits from bit `m` on, in arithmetic. -/
theorem and_highBits_toNat {k : Nat} (m : Nat) (x c : BitVec k) (hc : ∀ j, j < k → c.getLsbD j = decide (m ≤ j)) :
    (x &&& c).toNat = x.toNat / 2 ^ m * 2 ^ m := by
  have hshift : x &&& c = (x >>> m) <<< m := by
    apply BitVec.eq_of_getLsbD_eq
    intro i hi
    rw [BitVec.getLsbD_and, hc i hi, BitVec.getLsbD_shiftLeft, BitVec.getLsbD_ushiftRight, decide_eq_true hi, Bool.true_and]
    by_cases h : m ≤ i
    · rw [decide_eq_true h, decide_eq_false (by omega), Nat.add_sub_cancel' h, Bool.and_true, Bool.not_false, Bool.true_and]
    · rw [decide_eq_false h, decide_eq_true (by omega), Bool.and_false, Bool.not_true, Bool.false_and]
  rw [hshift, BitVec.toNat_shiftLeft, BitVec.toNat_ushiftRight, Nat.shiftRight_eq_div_pow, Nat.shiftLeft_eq,
    Nat.mod_eq_of_lt ((Nat.div_mul_le_self _ _).trans_lt x.isLt)]

theorem jumpTarget_eq (pc : Word) (target : BitVec 26) :
    BitVec.ofNat 32 ((pc.toNat + 4) % 2 ^ 32 / 2 ^ 28 * 2 ^ 28 + target.toNat * 4) = jumpTarget pc target := by
  have hlow : (target.setWidth 32 <<< 2).toNat = target.toNat * 4 := by
    have := target.isLt
    simp [Nat.shiftLeft_eq]
    omega
  have hhigh := and_highBits_toNat 28 (pc + 4#32) 0xF0000000#32 (by decide)
  apply BitVec.eq_of_toNat_eq
  rw [jumpTarget, BitVec.toNat_or, hhigh, ← Nat.shiftLeft_eq ((pc + 4#32).toNat / 2 ^ 28),
    ← Nat.shiftLeft_add_eq_or_of_lt (by omega), hlow, Nat.shiftLeft_eq, BitVec.toNat_ofNat, BitVec.toNat_add,
    show (4#32).toNat = 4 from rfl]
  omega

theorem registerTarget_eq (s : State) (rs : Reg) :
    BitVec.ofNat 32 ((s.getX rs).toNat % 2 ^ 32 / 4 * 4) = s.registerTarget rs := by
  apply BitVec.eq_of_toNat_eq
  rw [State.registerTarget, mask_low_two _ _ (by decide), State.getW, BitVec.toNat_setWidth, BitVec.toNat_ofNat]
  omega

/-- Settles O35: a jump is a branch that is always taken. -/
theorem jumps : Obligations.Jumps := by
  refine ⟨by simp +contextual [CpuPrimary, CpuSpecial, decodeCpuWord, decodeCpuSpecial],
    fun s rd rs target direct register hd hr => ?_⟩
  rw [jumpTarget_eq] at hd
  rw [registerTarget_eq] at hr
  subst hd hr
  have htaken : true = true ↔ True := iff_of_true rfl trivial
  have hlink := linkValue_eq s.cpu.pc
  exact ⟨branches_of_exec htaken rfl, branchesLinking_of_exec hlink htaken rfl, branches_of_exec htaken rfl,
    branchesLinking_of_exec hlink htaken rfl⟩

/-! ### COP0 -/

theorem writeC0_getC0 (s : State) (rd r : Reg) (v : Word) :
    (s.writeC0 rd v).getC0 r = if r = rd ∧ r ≠ 15#5 ∧ r ≠ 16#5 then v else s.getC0 r := by
  unfold State.writeC0
  by_cases hr : r = rd
  · subst hr
    rw [State.getC0_setC0_same]
    by_cases hconst : r = 15#5 ∨ r = 16#5
    · rw [if_pos hconst, if_neg (by tauto)]
    · rw [if_neg hconst, if_pos (by tauto)]
  · rw [State.getC0_setC0_other _ _ hr, if_neg fun h => hr h.1]

/-- Settles O36: MFC0 is a register write of the slot's view, MTC0 a slot write. -/
theorem cop0Moves : Obligations.Cop0Moves :=
  ⟨by simp +contextual [CpuCop0, decodeCpuWord, decodeCpuCop0], fun s rt rd =>
    ⟨writesX_wordResult (BitVec.ofInt_toInt) rfl, fun h => if_neg h, _, rfl, fun r => writeC0_getC0 s rd r _,
      fun _ => rfl, rfl, rfl, rfl, rfl, rfl, ⟨rfl, (advanced_retire _).delayFlag, rfl⟩,
      SameOutsideCpu.of_eq rfl rfl rfl rfl rfl rfl rfl rfl⟩⟩

/-- Clearing bit `b` alone. -/
theorem getLsbD_and_not_twoPow (v : Word) (b k : Nat) :
    (v &&& ~~~(BitVec.twoPow 32 b)).getLsbD k = (v.getLsbD k && !decide (k = b)) := by
  by_cases hk : k < 32
  · simp [hk, eq_comm]
  · simp [BitVec.getLsbD_of_ge _ _ (Nat.le_of_not_lt hk)]

theorem causeView_getLsbD (cause : Word) (irq : BitVec 4) (k : Nat) :
    (causeView cause irq).getLsbD k = if k = 10 then decide (irq ≠ 0#4) else cause.getLsbD k := by
  have hbit : (if irq = 0#4 then 0#32 else 0x00000400#32).getLsbD k = (decide (k = 10) && decide (irq ≠ 0#4)) := by
    by_cases hirq : irq = 0#4
    · simp [hirq]
    · rw [if_neg hirq, show 0x00000400#32 = BitVec.twoPow 32 10 from rfl, BitVec.getLsbD_twoPow]
      simp [hirq, eq_comm]
  rw [causeView, BitVec.getLsbD_or, hbit, show 0xFFFFFBFF#32 = ~~~(BitVec.twoPow 32 10) from rfl, getLsbD_and_not_twoPow]
  split
  next h => simp [h]
  next h => simp [h]

/-- Settles O37: a read of Cause shows bit 10 from the lines, whatever is stored. -/
theorem causeReadView : Obligations.CauseReadView := by
  intro s v k
  refine ⟨causeView_getLsbD _ _ k, ?_⟩
  have hstored : (s.writeC0 13#5 v).getC0 13#5 = v := (writeC0_getC0 s 13#5 13#5 v).trans (if_pos (by decide))
  show (causeView ((s.writeC0 13#5 v).getC0 13#5) s.cpu.irq).getLsbD k = _
  rw [hstored]
  exact causeView_getLsbD v s.cpu.irq k

/-! ### Exception return -/

theorem exec_eret (s : State) : exec .eret s = .next s.returnFromException := rfl

theorem returnFromException_pc (s : State) :
    s.returnFromException.cpu.pc = BitVec.ofNat 32 ((s.getC0 14#5).toNat / 4 * 4) := by
  apply BitVec.eq_of_toNat_eq
  show (s.getC0 14#5 &&& 0xFFFFFFFC#32).toNat = _
  rw [mask_low_two _ _ (by decide), BitVec.toNat_ofNat]
  omega

/-- Settles O38: the return writes pc, the delay flag and Status. -/
theorem eretReturns : Obligations.EretReturns :=
  ⟨by simp +contextual [decodeCpuWord, decodeCpuCop0], fun s =>
    ⟨_, rfl, returnFromException_pc s, rfl, s.returnFromException_status, fun _ => s.returnFromException_slot,
      fun _ => rfl, rfl, rfl, rfl, rfl, rfl, SameOutsideCpu.of_eq rfl rfl rfl rfl rfl rfl rfl rfl⟩⟩

/-- Settles O39: both enter the exception, whatever the code. -/
theorem syscallAndBreakRaise : Obligations.SyscallAndBreakRaise :=
  ⟨by simp +contextual [decodeCpuWord, decodeCpuSpecial], by simp +contextual [decodeCpuWord, decodeCpuSpecial],
    fun _ _ => ⟨raises_of_exec .sys rfl, raises_of_exec .bp rfl⟩⟩

/-- Settles O40. -/
theorem exceptionEntry : Obligations.ExceptionEntry := ⟨enteredException_enterException, rfl, rfl⟩

theorem and_not_three_of_aligned {x : Word} (h : x &&& 3#32 = 0#32) : x &&& 0xFFFFFFFC#32 = x := by
  calc x &&& 0xFFFFFFFC#32 = (x &&& 0xFFFFFFFC#32) ||| (x &&& 3#32) := by rw [h, BitVec.or_zero]
    _ = x &&& 0xFFFFFFFF#32 := by rw [← BitVec.and_or_distrib_left]; rfl
    _ = x := BitVec.and_allOnes (w := 32)

theorem aligned_faultPc {s : State} (h : s.cpu.pc &&& 3#32 = 0#32) : s.faultPc &&& 3#32 = 0#32 := by
  unfold State.faultPc
  split
  · rw [BitVec.sub_eq_add_neg]
    exact aligned_add h (by decide)
  · exact h

theorem statusClearEl_setEl_getLsbD (status : Word) (k : Nat) :
    (statusClearEl (statusSetEl status)).getLsbD k = (status.getLsbD k && !decide (k = 1)) := by
  rw [statusClearEl, statusSetEl, show 0xFFFFFFFD#32 = ~~~(BitVec.twoPow 32 1) from rfl, getLsbD_and_not_twoPow,
    BitVec.getLsbD_or, show 2#32 = BitVec.twoPow 32 1 from rfl, BitVec.getLsbD_twoPow]
  by_cases hk : k = 1
  · simp [hk]
  · simp [hk, Ne.symm hk]

/-- Settles O41: EPC is the aligned faulting pc, and entry sets the one Status bit that return clears. -/
theorem exceptionRoundTrip : Obligations.ExceptionRoundTrip := by
  intro s c haligned
  have hstatus : (s.enterException c).returnFromException.getC0 12#5 = statusClearEl (statusSetEl s.status) := by
    rw [State.returnFromException_status, State.status, State.enterException_status]
  have houtside : SameOutsideCpu s (s.enterException c).returnFromException := by
    apply SameOutsideCpu.of_eq <;> simp
  refine ⟨_, exec_eret _, ?_, ?_, fun k hk => ?_, State.returnFromException_cpu_delayFlag _, fun _ => rfl, rfl, rfl, rfl,
    houtside⟩
  · show (s.enterException c).getC0 14#5 &&& 0xFFFFFFFC#32 = _
    rw [State.enterException_epc, and_not_three_of_aligned (aligned_faultPc haligned)]
    rfl
  · rw [hstatus, statusClearEl_setEl_getLsbD]
    simp
  · rw [hstatus, statusClearEl_setEl_getLsbD]
    simp [hk, State.status]

/-! ### The interrupt poll -/

theorem interruptDue_iff (irq : BitVec 4) (status : Word) :
    interruptDue irq status = true ↔ irq ≠ 0#4 ∧ status.getLsbD 0 = true ∧ status.getLsbD 1 = false := by
  simp [interruptDue, statusIe, statusEl, and_assoc]

/-- After an exception entry EL is 1, so the poll does nothing. -/
theorem poll_enterException (s : State) (c : ExcCode) : (s.enterException c).poll = s.enterException c := by
  have hel : (s.enterException c).status.getLsbD 1 = true := (enteredException_enterException s c).el
  refine if_neg fun h => ?_
  obtain ⟨-, -, hclear⟩ := (interruptDue_iff _ _).1 h
  exact absurd (hel.symm.trans hclear) (by decide)

/-- Settles O42: the poll enters exactly when the interrupt condition holds. -/
theorem interruptPoll : Obligations.InterruptPoll := by
  refine ⟨fun s hirq hie hel => ?_, fun s h => if_neg (mt (interruptDue_iff _ _).1 h), poll_enterException, fun s t h => ?_⟩
  · have hpoll : s.poll = s.enterException .int := if_pos ((interruptDue_iff _ _).2 ⟨hirq, hie, hel⟩)
    exact hpoll ▸ enteredException_enterException s .int
  · exact ⟨_, by rw [cpuStep, h]; rfl⟩

/-! ### What no instruction writes -/

/-- What belongs to the host and to the machine's identity: the lines, the FPU file, the bank register, the ROM, PRId,
Config and the schedule. -/
structure SameHostState (s t : State) : Prop where
  irq : t.cpu.irq = s.cpu.irq
  fpr : t.cpu.fpr = s.cpu.fpr
  prid : t.getC0 15#5 = s.getC0 15#5
  config : t.getC0 16#5 = s.getC0 16#5
  bank : t.bank = s.bank
  rom : t.cart.map (·.rom) = s.cart.map (·.rom)
  calls : t.calls = s.calls

namespace SameHostState

variable {s t u : State}

theorem refl (s : State) : SameHostState s s := ⟨rfl, rfl, rfl, rfl, rfl, rfl, rfl⟩

theorem trans (h : SameHostState s t) (h' : SameHostState t u) : SameHostState s u :=
  ⟨h'.irq.trans h.irq, h'.fpr.trans h.fpr, h'.prid.trans h.prid, h'.config.trans h.config, h'.bank.trans h.bank,
    h'.rom.trans h.rom, h'.calls.trans h.calls⟩

/-- A state with the same CPU and nothing else of the host's changed. -/
theorem of_cpu (hcpu : t.cpu = s.cpu) (hbank : t.bank = s.bank) (hrom : t.cart.map (·.rom) = s.cart.map (·.rom))
    (hcalls : t.calls = s.calls) : SameHostState s t :=
  ⟨by rw [hcpu], by rw [hcpu], State.getC0_congr (by rw [hcpu]) _, State.getC0_congr (by rw [hcpu]) _, hbank, hrom, hcalls⟩

theorem retire (s : State) : SameHostState s s.retire := ⟨rfl, rfl, rfl, rfl, rfl, rfl, rfl⟩

theorem retireIf (s : State) (c : Bool) (target : Word) : SameHostState s (s.retireIf c target) := by
  cases c <;> exact ⟨rfl, rfl, rfl, rfl, rfl, rfl, rfl⟩

theorem setX (s : State) (rd : Reg) (v : DWord) : SameHostState s (s.setX rd v) := ⟨rfl, rfl, rfl, rfl, rfl, rfl, rfl⟩

theorem setLl (s : State) (v : Bool) : SameHostState s (s.setLl v) := ⟨rfl, rfl, rfl, rfl, rfl, rfl, rfl⟩

theorem writeC0 (s : State) (rd : Reg) (v : Word) : SameHostState s (s.writeC0 rd v) :=
  ⟨rfl, rfl, (writeC0_getC0 s rd _ v).trans (if_neg (by tauto)), (writeC0_getC0 s rd _ v).trans (if_neg (by tauto)),
    rfl, rfl, rfl⟩

theorem enterException (s : State) (c : ExcCode) : SameHostState s (s.enterException c) :=
  ⟨rfl, rfl, s.enterException_slot c (by decide) (by decide) (by decide),
    s.enterException_slot c (by decide) (by decide) (by decide), rfl, rfl, rfl⟩

theorem returnFromException (s : State) : SameHostState s s.returnFromException :=
  ⟨rfl, rfl, s.returnFromException_slot (by decide), s.returnFromException_slot (by decide), rfl, rfl, rfl⟩

theorem writeBusReg (s : State) (r : BusReg) (v : Word) : SameHostState s (s.writeBusReg r v) := by
  cases r <;> exact ⟨rfl, rfl, rfl, rfl, rfl, rfl, rfl⟩

/-- A bus write reaches the save buffer, but no ROM. -/
theorem memWrite (s : State) (a : Word) (n : Access) (v : Word) : SameHostState s (s.memWrite a n v) := by
  by_cases h : n = .word → registerAt s (physAddr a) = none
  · have hstored := storedAt_memWrite s a n v h
    refine of_cpu (s.memWrite_cpu a n v) hstored.bank ?_ hstored.calls
    obtain ⟨hs, ht⟩ | ⟨c, d, hs, ht, hd⟩ := hstored.cart
    · rw [hs, ht]
    · rw [hs, ht, hd]
      rfl
  · obtain ⟨rfl, hreg⟩ := Classical.not_imp.1 h
    obtain ⟨r, hr⟩ := Option.ne_none_iff_exists'.1 hreg
    exact State.memWrite_busReg hr v ▸ writeBusReg s r v

end SameHostState

theorem exec_sameHostState_of_cpu {i : Instr} (h : i.block = .cpu) (s : State) :
    ∃ t, exec i s = .next t ∧ SameHostState s t := by
  cases i
  case sll | srl | sra | sllv | srlv | srav | addu | subu | and | or | xor | nor | slt | sltu | addiu | slti | sltiu | andi
      | ori | xori | lui | mfhi | mthi | mflo | mtlo | mult | multu | div | divu | lb | lh | lw | lbu | lhu | lwu | ll
      | mfc0 =>
    exact ⟨_, rfl, rfl, rfl, rfl, rfl, rfl, rfl, rfl⟩
  case add | sub | addi =>
    dsimp only [exec, execAdd, execSub, execAddi]
    split
    · exact ⟨_, rfl, .enterException s .ov⟩
    · exact ⟨_, rfl, rfl, rfl, rfl, rfl, rfl, rfl, rfl⟩
  case mtc0 => exact ⟨_, rfl, (SameHostState.writeC0 s _ _).trans (.retire _)⟩
  case syscall | brk => exact ⟨_, rfl, .enterException s _⟩
  case eret => exact ⟨_, rfl, .returnFromException s⟩
  case beq | bne | blez | bgtz | bltz | bgez | j | jr => exact ⟨_, rfl, .retireIf s _ _⟩
  case bltzal | bgezal | jal | jalr => exact ⟨_, rfl, (SameHostState.setX s _ _).trans (.retireIf _ _ _)⟩
  case sb | sh | sw => exact ⟨_, rfl, (SameHostState.memWrite s _ _ _).trans (.retire _)⟩
  case sc =>
    dsimp only [exec, execSc]
    split
    · exact ⟨_, rfl, (SameHostState.memWrite s _ _ _).trans (.trans (.setX _ _ _) (.trans (.setLl _ _) (.retire _)))⟩
    · exact ⟨_, rfl, rfl, rfl, rfl, rfl, rfl, rfl, rfl⟩
  all_goals nomatch h

theorem exec_sameHostState (i : Instr) (s : State) : ∃ t, exec i s = .next t ∧ SameHostState s t := by
  cases hi : i.block with
  | cpu => exact exec_sameHostState_of_cpu hi s
  | rsp =>
    obtain ⟨f, hexec, hf⟩ := exec_rspOnly hi
    have hsame := hf.sameOutsideRsp s
    exact ⟨f s, hexec s, .of_cpu hsame.cpu hsame.bank (congrArg _ hsame.cart) hsame.calls⟩
  | rdp =>
    obtain ⟨t, ht, -, hcpu, -, -, -, hbank, hcart, hcalls⟩ := rdp_frame hi s
    exact ⟨t, ht, .of_cpu hcpu hbank (congrArg _ hcart) hcalls⟩

/-- Settles O44: what every operation of an instruction leaves, the instruction leaves. -/
theorem instructionsLeaveHostState : Obligations.InstructionsLeaveHostState := by
  intro i s
  obtain ⟨t, ht, h⟩ := exec_sameHostState i s
  exact ⟨t, ht, h.irq, h.fpr, h.bank, h.rom, h.prid, h.config, t.getX_zero, t.getR_zero, h.calls⟩

/-! ### Unrecognised words -/

theorem cpuExecute_of_unrecognised {w : Word} (h : ∀ i, decodeCpuWord w ≠ .ok i) (s : State) :
    cpuExecute w s = .next (s.enterException .ri) := by
  unfold cpuExecute
  split
  next i hi => exact absurd hi (h i)
  next => rfl

theorem cpuStep_of_unrecognised {s : State} (h : ∀ i, decodeCpuWord s.fetch ≠ .ok i) :
    cpuStep s = .next ((s.enterException .ri).poll.setReply (.cycles (Config.cycleCost s.fetch))) := by
  rw [cpuStep, cpuExecute_of_unrecognised h]
  rfl

theorem rspExecute_of_unrecognised {w : Word} (h : ∀ i, decodeRspWord w ≠ .ok i) (s : State) :
    rspExecute w s = .next s.rspRetire := by
  unfold rspExecute
  split
  next i hi => exact absurd hi (h i)
  next => rfl

theorem rspOnlyAdvances_rspRetire (s : State) : RspOnlyAdvances (.next s.rspRetire) s :=
  ⟨_, rfl, fun _ => rfl, fun _ => rfl, rfl, ⟨rfl, rfl, rfl, rfl⟩, rspAdvanced_retire s, ⟨rfl, rfl, rfl, rfl, rfl, rfl, rfl, rfl⟩⟩

/-- A CPU step is scheduled when the schedule is empty, and when its first call is one. -/
theorem step_of_cpuStep_scheduled {s : State} {rest : List PortCall}
    (h : (s.calls = [] ∧ rest = []) ∨ s.calls = .cpuStep :: rest) : step s = cpuStep { s with calls := rest } := by
  obtain ⟨hcalls, rfl⟩ | hcalls := h
  · have hself : ({ s with calls := [] } : State) = s := by rw [← hcalls]
    rw [step_of_calls_nil hcalls, hself]
  · exact step_of_calls_cons hcalls

/-- Settles O10: both processors' answers to a word that no row holds. -/
theorem unrecognisedWords : Obligations.UnrecognisedWords := by
  refine ⟨fun s w h => ⟨_, cpuExecute_of_unrecognised h s, enteredException_enterException s .ri⟩, fun s w h => ?_,
    fun s rest h hcalls => ?_, fun s h => ?_⟩
  · rw [rspExecute_of_unrecognised h]
    exact rspOnlyAdvances_rspRetire s
  · refine ⟨State.enterException { s with calls := rest } .ri, enteredException_enterException _ .ri, poll_enterException _ _, ?_⟩
    rw [step_of_cpuStep_scheduled hcalls]
    exact cpuStep_of_unrecognised (s := { s with calls := rest }) h
  · have hstep : ∀ rest, rspStepOnce { s with calls := rest } = .next (State.rspRetire { s with calls := rest }) :=
      fun _ => rspExecute_of_unrecognised h _
    refine ⟨hstep s.calls ▸ rspOnlyAdvances_rspRetire s, fun rest hcalls => ⟨_, rspOnlyAdvances_rspRetire _, ?_⟩⟩
    rw [step_of_calls_cons hcalls, ← hstep]
    rfl

end Sys2Proof.Machine
end

section
/-! The RSP (44_rsp): its scalar and vector instructions, its run states, and the DMA ports. -/

namespace Sys2Proof.Machine

/-! ### Scalar arithmetic and logic -/

theorem immZeroWord_eq (imm : BitVec 16) : BitVec.ofNat 32 imm.toNat = immZeroWord imm := BitVec.ofNat_toNat _ _

/-- Settles O45: the results are those of the CPU's word operations. -/
theorem rspArithmetic : Obligations.RspArithmetic := by
  refine ⟨by simp +contextual [RspSpecial, RspPrimary, decodeRspWord, decodeRspSpecial], fun s rd rs rt imm => ?_⟩
  rw [immZeroWord_eq, ofInt_add_toInt, ofInt_sub_toInt, ofInt_add_imm, ofNat_immUpper]
  exact ⟨writesR_of_exec rfl, writesR_of_exec rfl, writesR_of_exec rfl, writesR_of_exec rfl, writesR_of_exec rfl,
    writesR_of_exec rfl, writesR_of_exec rfl, writesR_of_exec rfl, writesR_of_exec rfl, writesR_of_exec rfl,
    writesR_of_exec rfl, writesR_of_exec rfl, writesR_of_exec rfl, writesR_of_exec rfl⟩

/-! ### Shifts and comparisons -/

theorem rspShiftCount_eq (s : State) (rs : Reg) : s.rspShiftCount rs = (s.getR rs).toNat % 32 := BitVec.toNat_setWidth 5 _

theorem immWord_toInt (imm : BitVec 16) : (immWord imm).toInt = imm.toInt := BitVec.toInt_signExtend_of_le (by decide)

theorem immWord_toNat (imm : BitVec 16) : ((immWord imm).toNat : Int) = imm.toInt % 2 ^ 32 := by
  rw [← immWord_toInt, BitVec.toInt_eq_toNat_bmod, show (2 : Int) ^ 32 = (2 ^ 32 : Nat) from rfl, Int.bmod_emod]
  have := (immWord imm).isLt
  omega

/-- Settles O46: shifts by powers of two, comparisons of integers and numbers. -/
theorem rspShiftsAndCompares : Obligations.RspShiftsAndCompares := by
  refine ⟨by simp +contextual [RspSpecial, RspPrimary, decodeRspWord, decodeRspSpecial], fun s rd rt rs shamt imm => ?_⟩
  rw [← rspShiftCount_eq, ← immWord_toNat, ← immWord_toInt]
  simp only [Nat.cast_lt, ← boolWord_eq (slt_iff _ _), ← boolWord_eq (ult_iff _ _), ofNat_shiftLeft, ofNat_ushiftRight,
    ofInt_sshiftRight]
  exact ⟨writesR_of_exec rfl, writesR_of_exec rfl, writesR_of_exec rfl, writesR_of_exec rfl, writesR_of_exec rfl,
    writesR_of_exec rfl, writesR_of_exec rfl, writesR_of_exec rfl, writesR_of_exec rfl, writesR_of_exec rfl⟩

/-! ### Loads and stores -/

theorem setWidth_ofInt_toNat (n : Int) : ((BitVec.ofInt 32 n).setWidth 12).toNat = (n % 4096).toNat := by
  rw [BitVec.toNat_setWidth, BitVec.toNat_ofInt]
  omega

/-- The effective address in arithmetic (44 section 3). -/
theorem rspEa_eq (s : State) (base : Reg) (off : BitVec 16) :
    s.rspEa base off = (((s.getR base).toInt + off.toInt) % 4096).toNat := by
  rw [State.rspEa, ← ofInt_add_imm, setWidth_ofInt_toNat]

section DmemRead

variable (s : State) (a : Nat)

theorem dmemRead_byte : (s.dmemRead a .byte).toNat = (Store.get s.rsp.dmem (a % 4096)).toNat := by
  rw [State.dmemRead, joinBytes_access]
  simp [bigEndian, Access.size, List.range_succ, Config.localSize]

theorem dmemRead_word : (s.dmemRead a .word).toNat =
    (((Store.get s.rsp.dmem (a % 4096)).toNat * 256 + (Store.get s.rsp.dmem ((a + 1) % 4096)).toNat) * 256
      + (Store.get s.rsp.dmem ((a + 2) % 4096)).toNat) * 256 + (Store.get s.rsp.dmem ((a + 3) % 4096)).toNat := by
  rw [State.dmemRead, joinBytes_access]
  simp [bigEndian, Access.size, List.range_succ, Config.localSize]

end DmemRead

/-- Settles O47: the bytes of the access, extended. -/
theorem rspLoads : Obligations.RspLoads := by
  refine ⟨by simp +contextual [RspPrimary, decodeRspWord], fun s rt base off a byteAt ha hbytes => ?_⟩
  rw [← rspEa_eq] at ha
  subst ha
  have hbyte : byteAt 0 = (s.dmemRead (s.rspEa base off) .byte).toNat := by rw [dmemRead_byte, hbytes]; rfl
  have hhalf : byteAt 0 * 256 + byteAt 1 = (s.dmemRead (s.rspEa base off) .half).toNat := by
    rw [dmemRead_half, hbytes, hbytes]
    rfl
  have hword : ((byteAt 0 * 256 + byteAt 1) * 256 + byteAt 2) * 256 + byteAt 3 =
      (s.dmemRead (s.rspEa base off) .word).toNat := by
    rw [dmemRead_word, hbytes, hbytes, hbytes, hbytes]
    rfl
  have hhalfInt : (byteAt 0 * 256 + byteAt 1 : Int) = ((s.dmemRead (s.rspEa base off) .half).toNat : Int) := by
    rw [← hhalf]
    push_cast
    rfl
  have hbyteLt : (s.dmemRead (s.rspEa base off) .byte).toNat < 2 ^ 8 := (joinBytes_toNat _ 1 (by decide)).2
  have hhalfLt : (s.dmemRead (s.rspEa base off) .half).toNat < 2 ^ 16 := (joinBytes_toNat _ 2 (by decide)).2
  rw [hhalfInt, hword, hhalf, hbyte, ← signExtend_setWidth_eq, ← signExtend_setWidth_eq, ← setWidth_setWidth_eq hbyteLt,
    ← setWidth_setWidth_eq hhalfLt, BitVec.ofNat_toNat, BitVec.setWidth_eq]
  exact ⟨writesR_of_exec rfl, writesR_of_exec rfl, writesR_of_exec rfl, writesR_of_exec rfl, writesR_of_exec rfl⟩

/-- Everything an RSP store does. -/
theorem storesDmem_of_exec {i : Instr} {s : State} {a : Nat} {n : Access} {v : Word} {byteAt : Nat → Byte}
    (hbytes : ∀ k, k < n.size → byteAt k = BitVec.ofNat 8 (v.toNat / 256 ^ (n.size - 1 - k)))
    (h : exec i s = .next (s.dmemWrite a n v).rspRetire) : StoresDmem i s a n.size byteAt := by
  refine ⟨_, h, fun k hk => ?_, fun b hb => get_writeBytes_other _ _ _ _ _ _ hb, fun _ => rfl, fun _ => rfl,
    ⟨rfl, rfl, rfl, rfl⟩, ⟨rfl, (rspAdvanced_retire _).delayFlag, rfl⟩, ⟨rfl, rfl, rfl, rfl, rfl, rfl, rfl, rfl⟩⟩
  rw [hbytes k hk, ← byteOf_eq]
  exact get_writeBytes_wrap _ _ _ _ (n.size_le.trans (by decide)) k hk

/-- Settles O48: a store is a write of DMEM and an advance. -/
theorem rspStores : Obligations.RspStores := by
  refine ⟨by simp +contextual [RspPrimary, decodeRspWord], fun s rt base off a ha => ?_⟩
  rw [← rspEa_eq] at ha
  subst ha
  refine ⟨storesDmem_of_exec (n := .byte) (fun k hk => ?_) rfl, storesDmem_of_exec (n := .half) (fun _ _ => rfl) rfl,
    storesDmem_of_exec (n := .word) (fun _ _ => rfl) rfl⟩
  rw [Nat.lt_one_iff.1 hk, Access.size, Nat.sub_self, Nat.pow_zero, Nat.div_one]

/-! ### Branches and jumps -/

theorem rspBranchTarget_eq (pc : Local) (off : BitVec 16) :
    BitVec.ofInt 12 ((pc.toNat + 4 + off.toInt * 4) / 4 * 4) = rspBranchTarget pc off := by
  have hoff : off.setWidth 12 <<< 2 = BitVec.ofInt 12 (off.toInt * 4) := by
    rw [BitVec.ofInt_mul, BitVec.shiftLeft_eq_mul_twoPow, ← BitVec.signExtend_eq_setWidth_of_le _ (by decide)]
    rfl
  have hsum : pc + 4#12 + off.setWidth 12 <<< 2 = BitVec.ofInt 12 (pc.toNat + 4 + off.toInt * 4) := by
    rw [hoff, BitVec.ofInt_add, BitVec.ofInt_add, BitVec.ofInt_natCast, BitVec.ofNat_toNat, BitVec.setWidth_eq]
    rfl
  apply BitVec.eq_of_toNat_eq
  rw [rspBranchTarget, hsum, mask_low_two _ _ (by decide), BitVec.toNat_ofInt, BitVec.toNat_ofInt]
  omega

/-- Settles O49: one condition and the same target for all, in integers. -/
theorem rspBranchInstructions : Obligations.RspBranchInstructions := by
  refine ⟨by simp +contextual [RspPrimary, RspRegimm, decodeRspWord, decodeRspRegimm], fun s rs rt off target ht => ?_⟩
  rw [rspBranchTarget_eq] at ht
  subst ht
  exact ⟨rspBranches_of_exec beq_iff_eq rfl, rspBranches_of_exec bne_iff_ne rfl,
    rspBranches_of_exec (isNonPositive_iff _) rfl, rspBranches_of_exec (isPositive_iff _) rfl,
    rspBranches_of_exec (isNegative_iff _) rfl, rspBranches_of_exec (isNonNegative_iff _) rfl,
    rspBranchesLinking_of_exec (isNegative_iff _) rfl, rspBranchesLinking_of_exec (isNonNegative_iff _) rfl⟩

theorem rspJumpTarget_eq (target : BitVec 26) : BitVec.ofNat 12 (target.toNat * 4) = rspJumpTarget target := by
  apply BitVec.eq_of_toNat_eq
  rw [rspJumpTarget, mask_low_two _ _ (by decide)]
  simp [Nat.shiftLeft_eq]
  omega

theorem rspRegisterTarget_eq (s : State) (rs : Reg) :
    BitVec.ofNat 12 ((s.getR rs).toNat / 4 * 4) = s.rspRegisterTarget rs := by
  apply BitVec.eq_of_toNat_eq
  rw [State.rspRegisterTarget, mask_low_two _ _ (by decide), BitVec.toNat_setWidth, BitVec.toNat_ofNat]
  omega

/-- Settles O50: a jump is a branch that is always taken. -/
theorem rspJumps : Obligations.RspJumps := by
  refine ⟨by simp +contextual [RspPrimary, RspSpecial, decodeRspWord, decodeRspSpecial],
    fun s rd rs target direct register hd hr => ?_⟩
  rw [rspJumpTarget_eq] at hd
  rw [rspRegisterTarget_eq] at hr
  subst hd hr
  have htaken : true = true ↔ True := iff_of_true rfl trivial
  exact ⟨rspBranches_of_exec htaken rfl, rspBranchesLinking_of_exec htaken rfl, rspBranches_of_exec htaken rfl,
    rspBranchesLinking_of_exec htaken rfl⟩

/-! ### Run states -/

/-- The run state (10_state R46). -/
def State.runState (s : State) : RunState := s.rsp.run

theorem exec_keeps_runState {i : Instr} (h : i.block = .rsp) (hbreak : ∀ code, i ≠ .rspBreak code) (s : State) :
    Keeps State.runState s (exec i s) := by
  have hbranch : ∀ (t : State) (c : Bool) (target : Local), (t.rspRetireIf c target).runState = t.runState :=
    fun _ c _ => by cases c <;> rfl
  cases i
  case rspSll | rspSrl | rspSra | rspSllv | rspSrlv | rspSrav | rspAdd | rspAddu | rspSub | rspSubu | rspAnd | rspOr
      | rspXor | rspNor | rspSlt | rspSltu | rspAddi | rspAddiu | rspSlti | rspSltiu | rspAndi | rspOri | rspXori | rspLui
      | rspLb | rspLh | rspLw | rspLbu | rspLhu | rspSb | rspSh | rspSw | vmulf | vmudl | vmudn | vmudh | vadd | vsub
      | vsar | lqv =>
    exact .next rfl
  case rspJ | rspJr | rspBeq | rspBne | rspBlez | rspBgtz | rspBltz | rspBgez | rspJal | rspJalr | rspBltzal | rspBgezal =>
    exact .next (hbranch _ _ _)
  case sqv vt base off =>
    obtain ⟨g, hg⟩ := writeLanes_frame (s.quadEa base off) (s.getV vt)
    refine ⟨_, rfl, ?_⟩
    rw [hg]
    rfl
  case rspBreak code => exact absurd rfl (hbreak code)
  all_goals nomatch h

theorem andThen_assoc (r : Result) (f g : State → Result) :
    andThen (andThen r f) g = andThen r fun t => andThen (f t) g := by
  cases r <;> rfl

theorem rspBurst_of_running {s : State} (h : s.rsp.run = .running) (n : Nat) :
    rspBurst (n + 1) s = andThen (rspStepOnce s) fun t => rspBurst n t := if_pos h

theorem rspBurst_of_not_running {s : State} (h : s.rsp.run ≠ .running) (n : Nat) : rspBurst n s = .next s := by
  cases n with
  | zero => rfl
  | succ n => exact if_neg h

/-- A burst of `m + n` is a burst of `m` and, from there, one of `n`. -/
theorem rspBurst_add (m n : Nat) (s : State) :
    rspBurst (m + n) s = andThen (rspBurst m s) fun t => rspBurst n t := by
  induction m generalizing s with
  | zero => rw [Nat.zero_add]; rfl
  | succ m ih =>
    by_cases h : s.rsp.run = .running
    · rw [show m + 1 + n = (m + n) + 1 by omega, rspBurst_of_running h, rspBurst_of_running h, andThen_assoc]
      exact congrArg _ (funext ih)
    · rw [rspBurst_of_not_running h, rspBurst_of_not_running h]
      exact (rspBurst_of_not_running h n).symm

/-- A call that returns nothing leaves what it ran to, with its reply. -/
theorem finish_of_next {r : Result} {t : State} (h : r = .next t) : finish r = .next (t.setReply .done) := by
  rw [h]
  rfl

/-- Settles O51: BREAK alone writes the run state, and a burst is its steps one by one. -/
theorem rspRunStates : Obligations.RspRunStates := by
  refine ⟨by simp +contextual [RspSpecial, decodeRspWord, decodeRspSpecial], fun s code => ⟨_, rfl, rfl, fun _ => rfl,
      fun _ => rfl, rfl, rfl, rfl, rfl, ⟨rfl, (rspAdvanced_retire _).delayFlag, rfl⟩,
      ⟨rfl, rfl, rfl, rfl, rfl, rfl, rfl, rfl⟩⟩,
    fun s => ⟨_, _, rfl, rfl, rfl, rfl⟩, fun s => ?_, fun i s t h hbreak ht => ?_, Nat.succ_pos _, fun s => ?_,
    fun s n h => rspBurst_of_not_running h n, fun s n => ⟨rfl, fun h => rspBurst_of_running h n⟩,
    fun s m n => rspBurst_add m n s⟩
  · obtain ⟨t, ht, -⟩ := rspStepOnce_keeps_params s
    exact ⟨t, _, ht, finish_of_next ht, rfl⟩
  · obtain ⟨u, hu, hrun⟩ := exec_keeps_runState h hbreak s
    rw [ht] at hu
    injection hu with hu
    exact hu ▸ hrun
  · obtain ⟨t, ht, -⟩ := rspBurst_keeps rspStepOnce_keeps_params Config.rspBurstMax s
    exact ⟨t, _, ht, finish_of_next ht, rfl⟩

/-! ### Vectors -/

theorem fieldVectorBit_eq_one {w : Word} (h : w.getLsbD 25 = true) : fieldVectorBit w = 1#1 := by
  apply BitVec.eq_of_getLsbD_eq
  intro i hi
  rw [Nat.lt_one_iff.1 hi, fieldVectorBit, BitVec.getLsbD_extractLsb']
  exact h

theorem signedProduct_high (a b : Lane) :
    BitVec.ofInt 16 (a.toInt * b.toInt / 2 ^ 16) = (signedProduct a b).extractLsb' 16 16 := by
  apply BitVec.eq_of_toNat_eq
  simp [signedProduct, BitVec.toNat_ofInt, Nat.shiftRight_eq_div_pow]
  omega

theorem signedProduct_low (a b : Lane) :
    BitVec.ofInt 16 (a.toInt * b.toInt) = (signedProduct a b).extractLsb' 0 16 := by
  apply BitVec.eq_of_toNat_eq
  simp [signedProduct, BitVec.toNat_ofInt]
  omega

theorem unsignedProduct_high (a b : Lane) :
    BitVec.ofNat 16 (a.toNat * b.toNat / 2 ^ 16) = (unsignedProduct a b).extractLsb' 16 16 := by
  apply BitVec.eq_of_toNat_eq
  simp [unsignedProduct, Nat.shiftRight_eq_div_pow]
  omega

theorem unsignedProduct_low (a b : Lane) :
    BitVec.ofNat 16 (a.toNat * b.toNat) = (unsignedProduct a b).extractLsb' 0 16 := by
  apply BitVec.eq_of_toNat_eq
  simp [unsignedProduct]

theorem ofInt_sub_lanes (a b : Lane) : BitVec.ofInt 16 (a.toInt - b.toInt) = a - b := by
  rw [sub_eq_add_neg, BitVec.ofInt_add, BitVec.ofInt_neg, BitVec.ofInt_toInt, BitVec.ofInt_toInt, BitVec.sub_eq_add_neg]

theorem ofNat_add_lanes (a b : Lane) : BitVec.ofNat 16 (a.toNat + b.toNat) = a + b := by
  rw [BitVec.ofNat_add, BitVec.ofNat_toNat, BitVec.ofNat_toNat, BitVec.setWidth_eq, BitVec.setWidth_eq]

/-- Settles O52: each lane operation is that of the lanes' integers or numbers, narrowed. -/
theorem vectorArithmetic : Obligations.VectorArithmetic := by
  refine ⟨by simp +contextual [RspVector, decodeRspWord, decodeRspVector, fieldVectorBit_eq_one, fieldVd, fieldRd, fieldRt,
    fieldElement], fun s vd vs vt e a b ha hb => ?_⟩
  simp only [signedProduct_high, signedProduct_low, unsignedProduct_high, unsignedProduct_low, ofInt_sub_lanes,
    ofNat_add_lanes, ha, hb]
  exact ⟨writesV_of_exec rfl fun _ => rfl, writesV_of_exec rfl fun _ => rfl, writesV_of_exec rfl fun _ => rfl,
    writesV_of_exec rfl fun _ => rfl, writesV_of_exec rfl fun _ => rfl, writesV_of_exec rfl fun _ => rfl,
    rspOnlyAdvances_rspRetire s⟩

/-! ### Vector loads and stores -/

theorem quadEa_eq (s : State) (base : Reg) (off : BitVec 7) :
    s.quadEa base off = (((s.getR base).toInt + off.toInt * 16) % 4096).toNat := by
  have hsum : s.getR base + off.signExtend 32 * 16#32 = BitVec.ofInt 32 ((s.getR base).toInt + off.toInt * 16) := by
    rw [BitVec.ofInt_add, BitVec.ofInt_mul, BitVec.ofInt_toInt]
    rfl
  rw [State.quadEa, hsum, setWidth_ofInt_toNat]

/-- A lane is what its two bytes spell. -/
theorem lane_of_bytes (l : Lane) :
    BitVec.ofNat 16 ((BitVec.ofNat 8 (l.toNat / 256 ^ 1)).toNat * 256 + (BitVec.ofNat 8 (l.toNat / 256 ^ 0)).toNat) = l := by
  apply BitVec.eq_of_toNat_eq
  have := l.isLt
  simp
  omega

/-- The lanes that SQV stores are the lanes that LQV reads back (44 R385, R386). -/
theorem readLanes_of_writeLanes (s : State) (a : Nat) (l : Vector Lane 8) : (s.writeLanes a l).readLanes a = l := by
  apply Vector.ext
  intro k hk
  have hget := readLanes_get (s.writeLanes a l) a ⟨k, hk⟩
  rw [(get_writeLanes s a l).1 (2 * k) (by omega), Nat.add_assoc, (get_writeLanes s a l).1 (2 * k + 1) (by omega),
    show 2 * k / 2 = k by omega, show (2 * k + 1) / 2 = k by omega, show 1 - 2 * k % 2 = 1 by omega,
    show 1 - (2 * k + 1) % 2 = 0 by omega, lane_of_bytes] at hget
  exact hget.trans (by simp [hk])

/-- Everything SQV does. -/
theorem storesDmem_sqv (s : State) (vt base : Reg) (off : BitVec 7) :
    StoresDmem (.sqv vt base off) s (s.quadEa base off) 16 (fun j =>
      BitVec.ofNat 8 (((s.getV vt).toList.getD (j / 2) 0#16).toNat / 256 ^ (1 - j % 2))) := by
  obtain ⟨hstored, hother⟩ := get_writeLanes s (s.quadEa base off) (s.getV vt)
  obtain ⟨g, hg⟩ := writeLanes_frame (s.quadEa base off) (s.getV vt)
  refine ⟨_, rfl, hstored, hother, ?_⟩
  rw [hg]
  exact ⟨fun _ => rfl, fun _ => rfl, ⟨rfl, rfl, rfl, rfl⟩, ⟨rfl, (rspAdvanced_retire _).delayFlag, rfl⟩,
    ⟨rfl, rfl, rfl, rfl, rfl, rfl, rfl, rfl⟩⟩

theorem readLanes_rspRetire (s : State) (a : Nat) : s.rspRetire.readLanes a = s.readLanes a := rfl

theorem getV_rspRetire (s : State) (r : Reg) : s.rspRetire.getV r = s.getV r := rfl

/-- SQV changes no register, so LQV reads at the same address, and what SQV stored there. -/
theorem getV_of_sqv_lqv {s t u : State} {vt base : Reg} {off : BitVec 7} (ht : exec (.sqv vt base off) s = .next t)
    (hu : exec (.lqv vt base off) t = .next u) (r : Reg) : u.getV r = s.getV r := by
  obtain ⟨g, hg⟩ := writeLanes_frame (s.quadEa base off) (s.getV vt)
  have hlanes := readLanes_of_writeLanes s (s.quadEa base off) (s.getV vt)
  injection ht with ht
  injection hu with hu
  have hv : ∀ r, t.getV r = s.getV r := fun r => by
    rw [← ht, hg]
    rfl
  have hea : t.quadEa base off = s.quadEa base off := by
    rw [← ht, hg]
    rfl
  have hread : t.readLanes (s.quadEa base off) = s.getV vt := by
    rw [← ht]
    exact (readLanes_rspRetire _ _).trans hlanes
  rw [← hu, hea, hread, getV_rspRetire]
  by_cases hr : r = vt
  · rw [hr, State.getV_setV_same]
  · rw [State.getV_setV_other t _ hr, hv]

/-- Settles O53: what LQV reads at an address is what SQV stored there. -/
theorem vectorLoadStore : Obligations.VectorLoadStore := by
  refine ⟨by simp +contextual [RspQuad, decodeRspWord, decodeRspQuad, fieldRd, fieldRt, fieldRs, fieldVectorOffset],
    fun s vt base off a ha => ?_⟩
  rw [← quadEa_eq] at ha
  subst ha
  refine ⟨⟨_, rfl, fun k => ?_, fun r hr => State.getV_setV_other s _ hr, fun _ => rfl, rfl, ⟨rfl, rfl, rfl, rfl⟩,
      ⟨rfl, (rspAdvanced_retire _).delayFlag, rfl⟩, ⟨rfl, rfl, rfl, rfl, rfl, rfl, rfl, rfl⟩⟩,
    storesDmem_sqv s vt base off, fun t u ht hu r => ?_⟩
  · show (State.getV (s.setV vt (s.readLanes (s.quadEa base off))) vt)[k] = _
    rw [State.getV_setV_same]
    exact readLanes_get s _ k
  · exact getV_of_sqv_lqv ht hu r

/-! ### DMA -/

/-- Settles O55: the ports run the transfers, which fill byte by byte. -/
theorem dmaPorts : Obligations.DmaPorts := fun s dram dmem n =>
  ⟨⟨_, rfl, rfl, dmemFilled_dmaToDmem s dram dmem n⟩, ⟨_, rfl, rfl, rdramFilled_dmaFromDmem s dram dmem n⟩⟩

end Sys2Proof.Machine
end

section
/-! The RDP (45_rdp): its commands, the rectangles and the frame write-back, and the drain of its queue. -/

namespace Sys2Proof.Machine

/-! ### The SET commands -/

/-- Settles O56: each command sets one field of the render state. -/
theorem setCommands : Obligations.SetCommands :=
  ⟨by simp +contextual [RdpCommand, decodeRdpCommand, fieldWidth], fun _ _ _ _ _ _ _ _ _ _ _ =>
    ⟨setsRender_of_exec rfl, setsRender_of_exec rfl, setsRender_of_exec rfl, setsRender_of_exec rfl,
      setsRender_of_exec rfl, setsRender_of_exec rfl, setsRender_of_exec rfl, setsRender_of_exec rfl,
      setsRender_of_exec rfl⟩⟩

/-! ### The fill colour -/

/-- Bits put below a number that has none there add up with it. -/
theorem or_eq_add_of_lt {x b i : Nat} (hx : x % 2 ^ i = 0) (hb : b < 2 ^ i) : x ||| b = x + b := by
  have h := Nat.shiftLeft_add_eq_or_of_lt hb (x / 2 ^ i)
  rw [Nat.shiftLeft_eq, Nat.div_mul_cancel (Nat.dvd_of_mod_eq_zero hx)] at h
  exact h.symm

/-- Four bytes in a word, most significant first. -/
theorem packBytes_toNat (a b c d : Byte) :
    (a.setWidth 32 <<< 24 ||| b.setWidth 32 <<< 16 ||| c.setWidth 32 <<< 8 ||| d.setWidth 32).toNat =
      a.toNat * 2 ^ 24 + b.toNat * 2 ^ 16 + c.toNat * 2 ^ 8 + d.toNat := by
  have ha := a.isLt
  have hb := b.isLt
  have hc := c.isLt
  have hd := d.isLt
  have hshift : ∀ (x : Byte) (k : Nat), k ≤ 24 → (x.setWidth 32 <<< k).toNat = x.toNat * 2 ^ k := fun x k hk => by
    have hx := x.isLt
    have hpow : 2 ^ k ≤ 2 ^ 24 := Nat.pow_le_pow_right (by decide) hk
    rw [BitVec.toNat_shiftLeft, Nat.shiftLeft_eq, BitVec.toNat_setWidth, Nat.mod_eq_of_lt (a := x.toNat) (by omega),
      Nat.mod_eq_of_lt]
    calc x.toNat * 2 ^ k ≤ x.toNat * 2 ^ 24 := Nat.mul_le_mul_left _ hpow
      _ < 2 ^ 32 := by omega
  have hlow : (d.setWidth 32).toNat = d.toNat := by
    rw [BitVec.toNat_setWidth]
    omega
  have hab := or_eq_add_of_lt (x := a.toNat * 2 ^ 24) (b := b.toNat * 2 ^ 16) (i := 24) (by omega) (by omega)
  have habc := or_eq_add_of_lt (x := a.toNat * 2 ^ 24 + b.toNat * 2 ^ 16) (b := c.toNat * 2 ^ 8) (i := 16) (by omega)
    (by omega)
  have habcd := or_eq_add_of_lt (x := a.toNat * 2 ^ 24 + b.toNat * 2 ^ 16 + c.toNat * 2 ^ 8) (b := d.toNat) (i := 8)
    (by omega) (by omega)
  rw [BitVec.toNat_or, BitVec.toNat_or, BitVec.toNat_or, hshift a 24 (by decide), hshift b 16 (by decide),
    hshift c 8 (by decide), hlow, hab, habc, habcd]

theorem expandChannel_toNat : ∀ c : BitVec 5, (expandChannel c).toNat = fillPixel.channel c.toNat := by decide

theorem channel_lt {c : Nat} (h : c < 32) : fillPixel.channel c < 256 := by
  unfold fillPixel.channel
  omega

theorem extractLsb'_toNat_div (w : Word) (n k : Nat) : (w.extractLsb' n k).toNat = w.toNat / 2 ^ n % 2 ^ k := by
  rw [BitVec.extractLsb'_toNat, Nat.shiftRight_eq_div_pow]

/-- The alpha channel is all ones or all zeros, by the lowest bit (45 R420). -/
theorem alpha_eq (w : Word) : (if w.getLsbD 0 then 0xFF#32 else 0x00#32) = (BitVec.ofNat 8 (w.toNat % 2 * 255)).setWidth 32 := by
  have hbit : w.getLsbD 0 = decide (w.toNat % 2 = 1) := by
    rw [BitVec.getLsbD, Nat.testBit_zero]
  rcases Nat.mod_two_eq_zero_or_one w.toNat with h | h <;> rw [hbit, h] <;> rfl

/-- The fill colour in arithmetic (45 R420). -/
theorem fillRgba_eq (r : RenderState) : fillRgba r = fillPixel r := by
  unfold fillRgba fillPixel
  split
  · apply BitVec.eq_of_toNat_eq
    have halpha : (BitVec.ofNat 8 (r.fillColor.toNat % 2 * 255)).toNat = r.fillColor.toNat % 2 * 255 := by
      rw [BitVec.toNat_ofNat]
      omega
    have hred : (r.fillColor.extractLsb' 11 5).toNat = r.fillColor.toNat / 2048 % 32 := extractLsb'_toNat_div _ _ _
    have hgreen : (r.fillColor.extractLsb' 6 5).toNat = r.fillColor.toNat / 64 % 32 := extractLsb'_toNat_div _ _ _
    have hblue : (r.fillColor.extractLsb' 1 5).toNat = r.fillColor.toNat / 2 % 32 := extractLsb'_toNat_div _ _ _
    rw [alpha_eq, packBytes_toNat, expandChannel_toNat, expandChannel_toNat, expandChannel_toNat, hred, hgreen, hblue, halpha,
      BitVec.toNat_ofNat, Nat.mod_eq_of_lt (b := 2 ^ 32)]
    have hr := channel_lt (Nat.mod_lt (r.fillColor.toNat / 2048) (by decide : 0 < 32))
    have hg := channel_lt (Nat.mod_lt (r.fillColor.toNat / 64) (by decide : 0 < 32))
    have hb := channel_lt (Nat.mod_lt (r.fillColor.toNat / 2) (by decide : 0 < 32))
    omega
  · rfl

/-! ### Rectangles -/

/-- Everything a drawing command does; the colour matters from the rectangle's corner on. -/
theorem paints_of_exec {i : Instr} {s : State} {xl yl xh yh : BitVec 12} {color color' : Nat → Nat → Word}
    (hcolor : ∀ x y, xh.toNat / 4 ≤ x → yh.toNat / 4 ≤ y → color x y = color' x y)
    (h : exec i s = .next (s.setFb (paintRect s.params.fbWidth s.rdp.fb (pixelRect s.params xl yl xh yh) color))) :
    Paints i s (xh.toNat / 4) (yh.toNat / 4) (xl.toNat / 4) (yl.toNat / 4) color' := by
  refine ⟨_, h, fun x y hx hy => ?_, rfl, rfl, fun a => State.memRead_congr rfl rfl rfl rfl rfl rfl a .byte,
    ⟨rfl, rfl, rfl, rfl, rfl, rfl, rfl, rfl, rfl⟩⟩
  have hpixel : ∀ fb, (s.setFb fb).pixel x y = Store.get fb (y * s.params.fbWidth + x) :=
    fun fb => pixel_eq (s.setFb fb) x y hx hy
  rw [hpixel, pixel_eq s x y hx hy, get_paintRect s.params s.rdp.fb xl yl xh yh color x y hx hy]
  split
  next hin => rw [hcolor x y hin.1 hin.2.2.1]
  next => rfl

theorem textureCoord_eq (start delta : BitVec 16) {x : Nat} {corner : BitVec 12} (h : corner.toNat / 4 ≤ x) :
    textureCoord start delta (x - corner.toNat / 4) = start.toInt * 32 + (x - corner.toNat / 4 : Int) * delta.toInt := by
  rw [textureCoord, Nat.cast_sub h]
  rfl

/-- Settles O57: both commands paint one rectangle, each with its colour. -/
theorem rectanglesPaint : Obligations.RectanglesPaint := by
  refine ⟨by simp +contextual [RdpCommand, decodeRdpCommand],
    fun s xl yl tile xh yh sc tc dsdx dtdy => ⟨paints_of_exec (fun _ _ _ _ => fillRgba_eq _) rfl,
      paints_of_exec (fun x y hx hy => ?_) rfl⟩,
    fun s => ⟨s.rdp.fb, rfl, fun x y hx hy => (pixel_eq s x y hx hy).symm⟩, rfl, rfl⟩
  rw [← textureCoord_eq sc dsdx hx, ← textureCoord_eq tc dtdy hy]
  rfl

/-! ### The frame write-back -/

/-- Pixel `k` of the framebuffer, row by row. -/
theorem pixel_of_index {s : State} {k : Nat} (h : k < s.params.fbWidth * s.params.fbHeight) :
    s.pixel (k % s.params.fbWidth) (k / s.params.fbWidth) = Store.get s.rdp.fb k := by
  have hwidth : 0 < s.params.fbWidth := Nat.pos_of_ne_zero fun h0 => by
    rw [h0, Nat.zero_mul] at h
    exact absurd h (Nat.not_lt_zero k)
  rw [pixel_eq s _ _ (Nat.mod_lt _ hwidth) (Nat.div_lt_of_lt_mul h), Nat.mul_comm, Nat.div_add_mod]

/-- Settles O58: a byte of the frame is a byte of its pixel. -/
theorem syncFullWritesFrame : Obligations.SyncFullWritesFrame := by
  refine ⟨by simp +contextual [RdpCommand, decodeRdpCommand], fun s base width height hinv hbase hwidth hheight =>
    ⟨_, rfl, rfl, fun a ha => ?_⟩⟩
  subst hbase hwidth hheight
  have hread := get_frameWriteback s.params s.rdram s.rdp.fb s.rdp.render.colorImage.addr.toNat a hinv.rdp.fb.1 ha
  rw [Params.frameBytes, Params.fbPixels] at hread
  rw [State.rdramReadByte, State.rdramReadByte, Store.peek, if_pos ha, Store.peek, if_pos ha]
  refine (congrArg BitVec.toNat hread).trans ?_
  split
  next hin => rw [byteOf_toNat, pixel_of_index (by omega)]
  next => rfl

/-! ### The drain -/

/-- What the drain leaves as it was: all but the RDP's queue and render state, its framebuffer and RDRAM (45 R434). -/
def drainFrame (s : State) : Cpu × Rsp × BitVec 24 × Nat × Option Cartridge × List PortCall :=
  (s.cpu, s.rsp, s.rdp.dpcStart, s.bank, s.cart, s.calls)

theorem exec_keeps_drainFrame {i : Instr} (s : State) (h : i.block = .rdp) : Keeps drainFrame s (exec i s) := by
  obtain ⟨t, ht, -, hcpu, hrsp, -, hstart, hbank, hcart, hcalls⟩ := rdp_frame h s
  exact ⟨t, ht, by rw [drainFrame, hcpu, hrsp, hstart, hbank, hcart, hcalls]; rfl⟩

/-- Fuel for every word of the queue empties it. -/
theorem drain_empties (fuel : Nat) {s : State} (h : s.rdp.queue.length ≤ fuel) :
    ∃ t, drain fuel s = .next t ∧ t.rdp.queue = [] := by
  induction fuel generalizing s with
  | zero => exact ⟨s, rfl, List.length_eq_zero_iff.1 (Nat.le_zero.1 h)⟩
  | succ fuel ih =>
    unfold drain
    split
    next hqueue => exact ⟨s, rfl, hqueue⟩
    next w0 rest hqueue =>
      have hrest : (rest.drop (s.params.rdpLen (fieldOpcode w0))).length ≤ fuel := by
        rw [hqueue, List.length_cons] at h
        rw [List.length_drop]
        omega
      split
      · exact ⟨_, rfl, rfl⟩
      split
      next i hd =>
        obtain ⟨t, ht, -, -, -, hq, -⟩ := rdp_frame (block_of_rdp hd) (s.setQueue _)
        rw [ht]
        exact ih (by rw [hq]; exact hrest)
      next => exact ih hrest

theorem processCommands_of_cutOff {s : State} {w0 : Word} {ws : List Word} (hqueue : s.rdp.queue = w0 :: ws)
    (h : ws.length < s.params.rdpLen (fieldOpcode w0)) : processCommands s = .next (s.setQueue []) := by
  unfold processCommands
  rw [hqueue, List.length_cons, drain, hqueue]
  exact if_pos h

/-- Settles O59: the fuel is the queue's length, and what every command leaves, the drain leaves. -/
theorem drainEmptiesQueue : Obligations.DrainEmptiesQueue := by
  refine ⟨fun s w => ⟨_, rfl, rfl⟩, fun s => ?_, fun s => ?_, fun s w0 ws h => processCommands_of_cutOff rfl h⟩
  · obtain ⟨t, ht, hqueue⟩ := drain_empties s.rdp.queue.length (Nat.le_refl _)
    obtain ⟨u, hu, hframe⟩ := drain_keeps (fun i s h => exec_keeps_drainFrame s h) (fun _ _ => rfl) s.rdp.queue.length s
    rw [ht] at hu
    injection hu with hu
    subst hu
    simp only [drainFrame, Prod.mk.injEq] at hframe
    exact ⟨t, ht, hqueue, hframe⟩
  · obtain ⟨t, ht, -⟩ := drain_empties s.rdp.queue.length (Nat.le_refl _)
    exact ⟨t, _, ht, finish_of_next ht, rfl⟩

/-- A recognised opcode with its operands' words decodes (45 R403). -/
theorem decodeRdpCommand_of_known {w0 : Word} {ws : List Word} (h : fieldOpcode w0 ∈ knownRdpOpcodes)
    (hone : 1 ≤ ws.length) (hthree : fieldOpcode w0 = 0x24#6 → 3 ≤ ws.length) : ∃ i, decodeRdpCommand w0 ws = .ok i := by
  cases hd : decodeRdpCommand w0 ws with
  | ok i => exact ⟨i, rfl⟩
  | error e =>
    obtain ⟨w1, ws, rfl⟩ := List.exists_cons_of_length_pos hone
    simp only [knownRdpOpcodes, List.mem_cons, List.not_mem_nil, or_false] at h
    rcases h with htexture | h | h | h | h | h | h | h | h | h | h | h
    · match ws, hthree htexture with
      | w2 :: w3 :: ws, _ => simp [decodeRdpCommand, htexture] at hd
    all_goals simp [decodeRdpCommand, h] at hd

theorem decodeRdpCommand_of_unknown {w0 : Word} (h : fieldOpcode w0 ∉ knownRdpOpcodes) (ws : List Word) :
    ∃ e, decodeRdpCommand w0 ws = .error e := by
  cases hd : decodeRdpCommand w0 ws with
  | error e => exact ⟨e, rfl⟩
  | ok i =>
    refine absurd ?_ h
    unfold decodeRdpCommand at hd
    split at hd
    case h_13 => cases hd
    all_goals
      rename_i hop
      rw [hop]
      decide

/-- Settles O60: one turn of the drain, by what the decoder answers. -/
theorem drainByCommand : Obligations.DrainByCommand := by
  refine ⟨fun s w0 ws rest hlength => ⟨fun hknown hone hthree => ?_, fun hunknown => ?_⟩, by decide⟩
  · obtain ⟨i, hd⟩ := decodeRdpCommand_of_known hknown hone hthree
    exact ⟨i, hd, processCommands_of_decode (s := s.setQueue (w0 :: (ws ++ rest))) rfl hlength hd⟩
  · obtain ⟨e, hd⟩ := decodeRdpCommand_of_unknown hunknown ws
    exact processCommands_of_error (s := s.setQueue (w0 :: (ws ++ rest))) rfl hlength hd

end Sys2Proof.Machine
end
